-- ==== Sys2Proof/Word.lean ====
section
/-! DEFINITION. The word types of the LIRD block. Every value is an unsigned integer of a stated width (00_scope R8);
the widths are the parameters TW = 32, CW = 32 and BW = 6 of 00_scope R4, written as numerals so that no proof meets
a width that is a variable. -/

namespace Sys2Proof

/-- A timestamp, an elapsed time or a time bound, in microseconds: TW = 32 bits (R4, R8). -/
abbrev Time := BitVec 32

/-- The accumulator and the code: CW = 32 bits (R4, R11, R20). -/
abbrev Code := BitVec 32

/-- A bit count or a bit index: BW = 6 bits (R4, R13). -/
abbrev Count := BitVec 6

/-- The event word of an operation (30_encoding R41). -/
abbrev EventWord := BitVec 36

/-- The descriptor word (30_encoding R47). -/
abbrev DescWord := BitVec 208

/-- The snapshot word (30_encoding R49). -/
abbrev SnapWord := BitVec 99

end Sys2Proof
end

