-- ==== Sys2Proof/Config.lean ====
section
/-! DEFINITION. The implementation parameters of 00_scope R4, as plain data that the machine carries and no operation
writes. What the spec leaves OPEN stays open: claims quantify over every state, so over every value of every parameter. -/

namespace Sys2Proof

/-- The parameters of 00_scope R4 that have no fixed value. -/
structure Params where
  /-- `REPEAT_INTERVAL_US`, OPEN (R4, R104). -/
  repeatIntervalUs : Time
  /-- `PF_REF_ON_IDLE_EDGE`, default false (R4, R72). -/
  pfRefOnIdleEdge : Bool
  /-- `ABORT_FALLS_INTO_START`, default false (R4, R75, R94). -/
  abortFallsIntoStart : Bool
  /-- The predicate `bp_distinguishable` as data: the descriptor words it REFUSES (R4, R63 item 6).
  DESIGN CHOICE of the form, entry 3: there are finitely many descriptor words, so every predicate is such a list. -/
  bpRefused : List DescWord
  deriving DecidableEq, Repr

/-- The repeat interval of the chip that is reset: no source gives a value (R4 OPEN, 93 U2), and nothing in Lean
can evaluate this one. DESIGN CHOICE, entry 1. -/
opaque Config.repeatIntervalUs : Time

/-- The default parameters of R4 at a given repeat interval. -/
def Config.defaults (repeatIntervalUs : Time) : Params :=
  { repeatIntervalUs := repeatIntervalUs
    pfRefOnIdleEdge := false
    abortFallsIntoStart := false
    bpRefused := [] }

/-- The parameters in force from `State.reset`. -/
def Config.params : Params := Config.defaults Config.repeatIntervalUs

end Sys2Proof
end

