-- ==== Sys2Proof/Machine/TraceLine.lean ====
section
/-! DEFINITION. The lines of a trace as abstract syntax (30_encoding R54 to R56): the four operation lines, whose
CONFIG has three forms, and the four pseudo-operations. Numbers are as written; WellFormed.lean checks their ranges. -/

namespace Sys2Proof

/-- One line of a trace. -/
inductive TraceLine where
  | nop
  | edge (level ts : Nat)
  | poll (ts : Nat)
  | configPF (bits distanceMode startMin startMax bitMin bitMax bitSep : Nat)
  | configBP (bits polarity startMin startMax bitMin bitMax togMin togMax togglePos : Nat)
  | configRaw (c : Nat)
  | rise (ts : Nat)
  | fall (ts : Nat)
  | intervals (level t0 : Nat) (ds : List Nat)
  | polls (t0 step n : Nat)
  deriving DecidableEq, Repr

end Sys2Proof
end

