-- ==== Sys2Proof/Syntax.lean ====
section
/-! DEFINITION. The four operations of the block (30_encoding R40), one constructor per row of spec/opcode_table.json.
The operands carry their widths in their types (30_encoding R48: each is an unsigned integer taken as it stands). -/

namespace Sys2Proof

/-- An operation, decoded. -/
inductive Instr where
  /-- `NOP`: no operand (R46, R60). -/
  | nop
  /-- `EDGE`: the new level of the line and the time of the transition (R43, R64). -/
  | edge (level : Bool) (ts : Time)
  /-- `POLL`: the time of the poll (R44, R107). -/
  | poll (ts : Time)
  /-- `CONFIG`: the descriptor word held on the input `cfg` (R45, R61). -/
  | config (c : DescWord)
  deriving DecidableEq, Repr

end Sys2Proof
end

