-- ==== Sys2Proof/WellFormed.lean ====
section
/-! DEFINITION. Well-formedness. An operation's operands carry their widths in their types, so every term of `Instr` is
an operation of the block: an EDGE of any level and time, a POLL of any time, a CONFIG of any descriptor word (an invalid
descriptor is no ill-formed operation: CONFIG runs and raises ConfigError, 40_config R62). The range checks stand on
the lines of a trace, whose numbers are unbounded as written (30_encoding R55). -/

namespace Sys2Proof

/-- Every operation of R40 is well formed: its fields cannot be out of range. -/
def Instr.wellFormed : Instr → Bool
  | .nop => true
  | .edge _ _ => true
  | .poll _ => true
  | .config _ => true

/-- A one-bit number of a trace line: 0 or 1. -/
def TraceLine.okBit (n : Nat) : Bool := decide (n ≤ 1)

/-- A timestamp or a bound of a trace line: 0 to 2^32 - 1. -/
def TraceLine.okTime (n : Nat) : Bool := decide (n < 2 ^ 32)

/-- A bit count or a toggle position of a trace line: 0 to 63. -/
def TraceLine.okCount (n : Nat) : Bool := decide (n ≤ 63)

/-- The ranges of R55; of R56 the levels and starting times, whose syntax is that of R55. Its sums are modulo
2^32, and its intervals, step and count have no bound, 0 included (DESIGN CHOICE, entry 20). -/
def TraceLine.wellFormed : TraceLine → Bool
  | .nop => true
  | .edge level ts => okBit level && okTime ts
  | .poll ts => okTime ts
  | .configPF bits dm sMin sMax bMin bMax sep =>
      okCount bits && okBit dm && okTime sMin && okTime sMax && okTime bMin && okTime bMax && okTime sep
  | .configBP bits pol sMin sMax bMin bMax tMin tMax pos =>
      okCount bits && okBit pol && okTime sMin && okTime sMax && okTime bMin && okTime bMax && okTime tMin && okTime tMax
        && okCount pos
  | .configRaw c => decide (c < 2 ^ 208)
  | .rise ts => okTime ts
  | .fall ts => okTime ts
  | .intervals level t0 _ => okBit level && okTime t0
  | .polls t0 _ _ => okTime t0

end Sys2Proof
end

