-- ==== Sys2Proof/Decode.lean ====
section
/-! DEFINITION. The event word, decoded and encoded (30_encoding R41 to R46, R51). The decoder is total on every 36-bit
word and rejects the illegal ones of R51 by name; the encoder is written from the same formats. -/

namespace Sys2Proof

/-- Why an event word is illegal (R51). -/
inductive DecodeError where
  /-- `op` = EDGE with `z` = 1: top digit 6 or 7. -/
  | edgeReservedBit
  /-- `op` = POLL with `z` or `lvl` set: top digit 9, A or B. -/
  | pollReservedBits
  /-- `op` = CONFIG with a bit of W[33:0] set: top digit D, E or F, or C with low bits. -/
  | configOperandBits
  deriving DecidableEq, Repr

/-- `W[35:34]`, the operation (R42). -/
def opField (w : EventWord) : BitVec 2 := w.extractLsb' 34 2

/-- `W[33]`, must be zero in EDGE, POLL, CONFIG (R41). -/
def zField (w : EventWord) : Bool := w.getLsbD 33

/-- `W[32]`, the level (R41). -/
def lvlField (w : EventWord) : Bool := w.getLsbD 32

/-- `W[31:0]`, the timestamp (R41). -/
def tsField (w : EventWord) : Time := w.extractLsb' 0 32

/-- The decoder of event words (R42 to R46, R51). `cfg` is the descriptor word the environment holds beside the event
word; only CONFIG samples it (R45). -/
def decode (w : EventWord) (cfg : DescWord) : Except DecodeError Instr :=
  if opField w = 0b00#2 then .ok .nop
  else if opField w = 0b01#2 then
    if zField w then .error .edgeReservedBit else .ok (.edge (lvlField w) (tsField w))
  else if opField w = 0b10#2 then
    if zField w || lvlField w then .error .pollReservedBits else .ok (.poll (tsField w))
  else
    if zField w || lvlField w || tsField w != 0#32 then .error .configOperandBits else .ok (.config cfg)

/-- An event word from its four fields (R41). -/
def eventWord (op : BitVec 2) (z lvl : Bool) (ts : Time) : EventWord :=
  op ++ BitVec.ofBool z ++ BitVec.ofBool lvl ++ ts

/-- The canonical event word of an operation (R43 to R46) and the descriptor word held beside it (0 where the operation
does not sample it). -/
def encode : Instr → EventWord × DescWord
  | .nop => (eventWord 0b00#2 false false 0#32, 0)
  | .edge level ts => (eventWord 0b01#2 false level ts, 0)
  | .poll ts => (eventWord 0b10#2 false false ts, 0)
  | .config c => (eventWord 0b11#2 false false 0#32, c)

/-- One row of the opcode table: the words of an operation are those with `w &&& mask = pattern`. -/
structure Row where
  mnemonic : String
  pattern : EventWord
  mask : EventWord
  deriving DecidableEq, Repr

/-- The match and mask values of R43 to R46. -/
def opcodeTable : List Row :=
  [ { mnemonic := "NOP", pattern := 0x000000000#36, mask := 0xC00000000#36 },
    { mnemonic := "EDGE", pattern := 0x400000000#36, mask := 0xE00000000#36 },
    { mnemonic := "POLL", pattern := 0x800000000#36, mask := 0xF00000000#36 },
    { mnemonic := "CONFIG", pattern := 0xC00000000#36, mask := 0xFFFFFFFFF#36 } ]

/-- A word belongs to a row. -/
def Row.hits (r : Row) (w : EventWord) : Bool := w &&& r.mask == r.pattern

/-- The row of an operation. -/
def rowOf : Instr → Row
  | .nop => { mnemonic := "NOP", pattern := 0x000000000#36, mask := 0xC00000000#36 }
  | .edge _ _ => { mnemonic := "EDGE", pattern := 0x400000000#36, mask := 0xE00000000#36 }
  | .poll _ => { mnemonic := "POLL", pattern := 0x800000000#36, mask := 0xF00000000#36 }
  | .config _ => { mnemonic := "CONFIG", pattern := 0xC00000000#36, mask := 0xFFFFFFFFF#36 }

/-- The event word of a table word: bits 35..0 (entry 16). -/
def tableEventWord (nbits w : Nat) : EventWord := BitVec.ofNat 36 (w % 2 ^ nbits)

/-- The four bits of the 40-bit container above the event word; the block has no wire for them (entry 16). -/
def tablePadding (nbits w : Nat) : BitVec 4 := BitVec.ofNat 4 ((w % 2 ^ nbits) / 2 ^ 36)

/-- The descriptor word beside a table word: bits 247..40, all zero for the table's own rows (entry 16). -/
def tableDescWord (nbits w : Nat) : DescWord := BitVec.ofNat 208 ((w % 2 ^ nbits) / 2 ^ 40)

/-- The operation the decoder reads from an instruction numbered as spec/opcode_table.json numbers it. -/
def decodeTableWord (nbits w : Nat) : Option Instr :=
  if tablePadding nbits w = 0#4 then
    match decode (tableEventWord nbits w) (tableDescWord nbits w) with
    | .ok i => some i
    | .error _ => none
  else none

end Sys2Proof
end

