-- ==== Sys2Proof/Machine/State.lean ====
section
/-! DEFINITION. The state of the machine: the registers of 10_state R10, exactly, and beside them the three fields the
model needs as data (the parameters of R4, the inputs to come, the snapshots returned). -/

namespace Sys2Proof.Machine

/-- `desc.kind`: pulse-fraction or bi-phase (R15, R50). -/
inductive Kind where
  | pf
  | bp
  deriving DecidableEq, Repr

/-- `ws.pair`, a 2-bit register (R13, R50). The value 3 is held, so that "never 3" (R24 d) is a claim. -/
inductive Pair where
  | ord
  | start
  | toggle
  | unused
  deriving DecidableEq, Repr

/-- `er.state`, the button state (R22, R50). -/
inductive Button where
  | none
  | pressed
  | held
  | released
  deriving DecidableEq, Repr

/-- The descriptor registers (R15 to R17, R47). One storage field is stored once: `flag` is `distanceMode` or
`polarity`, `b4` is `bitSep` or `togMin`. -/
structure Descriptor where
  kind : Kind
  flag : Bool
  bits : Count
  togglePos : Count
  startMin : Time
  startMax : Time
  bitMin : Time
  bitMax : Time
  b4 : Time
  togMax : Time
  deriving DecidableEq, Repr

/-- The Decoder Working State (R11 to R13). -/
structure Working where
  bitsRemaining : Count
  acc : Code
  ref : Time
  pair : Pair
  deriving DecidableEq, Repr

/-- The Event Record (R20 to R23). -/
structure EventRecord where
  code : Code
  firstPress : Time
  pollTime : Time
  state : Button
  toggle : Bool
  deriving DecidableEq, Repr

/-- What the environment presents: an event word with the descriptor word on `cfg` (R41, R45), an EDGE and a POLL ready
together (R121), or reset (R130). -/
inductive Input where
  | op (w : EventWord) (cfg : DescWord)
  | edgeWithPoll (level : Bool) (tsEdge tsPoll : Time)
  | reset
  deriving DecidableEq, Repr

/-- No meaning of this machine stops: "None makes the block fault; the block has no way to fault here" (70, section 3), and ConfigError
is a condition the block goes on in (60 R116, R123). So the type has no constructor (entry 14). -/
inductive Fault where
  deriving DecidableEq, Repr

/-- Refusals. -/
inductive Refusal where
  /-- An operation without a meaning yet, raised by an arm of `exec` only; no arm does (safe). -/
  | notModelled (mnemonic : String)
  deriving DecidableEq, Repr

/-- The machine. The first five fields are the whole state of the block (R10); the last three are the model's own. -/
structure State where
  desc : Descriptor
  enabled : Bool
  cfgErr : Bool
  ws : Working
  er : EventRecord
  /-- The parameters of R4; no operation writes them (entry 1). -/
  par : Params
  /-- The inputs still to be presented, the next one first (entry 4). -/
  trace : List Input
  /-- The snapshot words returned so far, the newest first (entry 5). -/
  snaps : List SnapWord
  deriving DecidableEq, Repr

/-- The descriptor registers after reset (R27). -/
def Descriptor.zero : Descriptor :=
  { kind := .pf, flag := false, bits := 0#6, togglePos := 0#6, startMin := 0#32, startMax := 0#32, bitMin := 0#32, bitMax := 0#32,
    b4 := 0#32, togMax := 0#32 }

/-- The working state after reset (R27). -/
def Working.zero : Working := { bitsRemaining := 0#6, acc := 0#32, ref := 0#32, pair := .ord }

/-- The Event Record after reset (R27). -/
def EventRecord.zero : EventRecord := { code := 0#32, firstPress := 0#32, pollTime := 0#32, state := .none, toggle := false }

/-- The machine right after reset (R27, R130): every register 0, nothing presented yet, nothing returned yet. -/
def State.reset : State :=
  { desc := Descriptor.zero
    enabled := false
    cfgErr := false
    ws := Working.zero
    er := EventRecord.zero
    par := Config.params
    trace := []
    snaps := [] }

end Sys2Proof.Machine
end

