-- ==== Sys2Proof/Machine/Ops.lean ====
section
/-! DEFINITION. The named operations over the registers, and what several operations of the block share: the elapsed
time, taking ConfigError, publication, the snapshot, reset and the next input. A write of the spec's pseudocode is one of
the updates below (00_scope R9). -/

namespace Sys2Proof.Machine

/-! ### One register at a time -/

def State.setDesc (s : State) (d : Descriptor) : State := { s with desc := d }

def State.setEnabled (s : State) (b : Bool) : State := { s with enabled := b }

def State.setCfgErr (s : State) (b : Bool) : State := { s with cfgErr := b }

def State.setBitsRemaining (s : State) (n : Count) : State := { s with ws := { s.ws with bitsRemaining := n } }

def State.setAcc (s : State) (a : Code) : State := { s with ws := { s.ws with acc := a } }

def State.setRef (s : State) (t : Time) : State := { s with ws := { s.ws with ref := t } }

def State.setPair (s : State) (p : Pair) : State := { s with ws := { s.ws with pair := p } }

def State.setCode (s : State) (c : Code) : State := { s with er := { s.er with code := c } }

def State.setFirstPress (s : State) (t : Time) : State := { s with er := { s.er with firstPress := t } }

def State.setPollTime (s : State) (t : Time) : State := { s with er := { s.er with pollTime := t } }

def State.setButton (s : State) (b : Button) : State := { s with er := { s.er with state := b } }

def State.setToggle (s : State) (b : Bool) : State := { s with er := { s.er with toggle := b } }

/-- The working state back to its reset values (R27, R62). -/
def State.clearWorking (s : State) : State := { s with ws := Working.zero }

/-- The Event Record back to its reset values (R27, R62). -/
def State.clearRecord (s : State) : State := { s with er := EventRecord.zero }

/-- The environment's remaining inputs. -/
def State.setTrace (s : State) (l : List Input) : State := { s with trace := l }

/-- Return a snapshot word to whoever polled (R7, R108). -/
def State.returnSnap (s : State) (w : SnapWord) : State := { s with snaps := w :: s.snaps }

/-- `ws.acc <- ws.acc | (1 << i)` (R74, R90). An index of 32 or more, which no run reaches (R24 a), sets nothing:
DESIGN CHOICE, entry 9. -/
def State.setAccBit (s : State) (i : Count) : State := s.setAcc (s.ws.acc ||| (1#32 <<< i.toNat))

/-! ### Arithmetic -/

/-- `elapsed_TW(now, ref)`: the modular difference (R8, R80). -/
def elapsed (now ref : Time) : Time := now - ref

/-! ### The one fault -/

/-- `raise ConfigError`: `cfgErr <- 1; enabled <- 0` (R9, R116). It saves nothing and goes nowhere (R122), and there is
no return from it: a later valid CONFIG, or reset, leaves the condition (R123). -/
def raiseConfigError (s : State) : State := (s.setCfgErr true).setEnabled false

/-! ### Publication -/

/-- `publish(now)`, shared by both algorithms (R78). -/
def publish (now : Time) (s : State) : State :=
  if s.er.state = .none then
    ((s.setCode s.ws.acc).setFirstPress now).setToggle (!s.er.toggle)
  else s

/-! ### The snapshot -/

/-- The encoding of the button state (R50). -/
def Button.bits : Button → BitVec 2
  | .none => 0
  | .pressed => 1
  | .held => 2
  | .released => 3

/-- The button state of an encoding (R50). -/
def Button.ofBits (b : BitVec 2) : Button :=
  if b = 0 then .none else if b = 1 then .pressed else if b = 2 then .held else .released

/-- The encoding of the timing-pair selector (R50). -/
def Pair.bits : Pair → BitVec 2
  | .ord => 0
  | .start => 1
  | .toggle => 2
  | .unused => 3

/-- The snapshot word of an Event Record: `S[98:97]` state, `S[96]` toggle, `S[95:64]` code, `S[63:32]` firstPress,
`S[31:0]` pollTime (R49, R108). -/
def EventRecord.word (e : EventRecord) : SnapWord :=
  e.state.bits ++ BitVec.ofBool e.toggle ++ e.code ++ e.firstPress ++ e.pollTime

/-- The Event Record a snapshot word shows (R49). -/
def EventRecord.ofWord (w : SnapWord) : EventRecord :=
  { code := w.extractLsb' 64 32
    firstPress := w.extractLsb' 32 32
    pollTime := w.extractLsb' 0 32
    state := Button.ofBits (w.extractLsb' 97 2)
    toggle := w.getLsbD 96 }

/-- `return snapshot()`: the record as it stands now (R108). -/
def returnSnapshot (s : State) : State := s.returnSnap s.er.word

/-! ### Reset -/

/-- Hardware reset: every register of R10 to 0 (R27, R130). The parameters, the inputs still to come and the snapshots
already returned are no registers and stay (entry 11). -/
def hardReset (s : State) : State :=
  ((((s.setDesc Descriptor.zero).setEnabled false).setCfgErr false).clearWorking).clearRecord

/-! ### The next input -/

/-- What presenting the next input gives the block to do. -/
inductive Presented where
  /-- The environment presents nothing; the block waits (R14, R145; entry 6). -/
  | waiting
  /-- Reset (R130). -/
  | reset
  /-- An illegal event word, and why (R51, R53). -/
  | illegal (e : DecodeError)
  /-- An operation (R41). -/
  | operation (i : Instr)
  deriving DecidableEq, Repr

/-- The input at the head of the trace, decoded. Of an EDGE and a POLL ready together the EDGE comes first (R37, R121). -/
def presented (s : State) : Presented :=
  match s.trace with
  | [] => .waiting
  | .reset :: _ => .reset
  | .edgeWithPoll level tsEdge _ :: _ => .operation (.edge level tsEdge)
  | .op w cfg :: _ =>
    match decode w cfg with
    | .ok i => .operation i
    | .error e => .illegal e

/-- The state once the head of the trace has been taken from it; the POLL of a simultaneous pair is presented next
(R121). -/
def afterInput (s : State) : State :=
  match s.trace with
  | [] => s
  | .edgeWithPoll _ _ tsPoll :: rest => s.setTrace (.op (encode (.poll tsPoll)).1 (encode (.poll tsPoll)).2 :: rest)
  | .op _ _ :: rest => s.setTrace rest
  | .reset :: rest => s.setTrace rest

/-- An illegal event word: "changes no state and returns nothing, exactly as NOP" (R53, R119; entry 7). -/
def illegalWord (_ : DecodeError) (s : State) : State := s

end Sys2Proof.Machine
end

