-- ==== Sys2Proof/Machine/Operands.lean ====
section
/-! DEFINITION. The operands of the operations: the fields of a descriptor word (30_encoding R47, R48), the two names of
the shared fields (10_state R16, R17), and the timing-bound pairs (42_biphase R86, R91). -/

namespace Sys2Proof.Machine

/-! ### The descriptor word -/

/-- `C[207]` (R47). -/
def cKind (c : DescWord) : Kind := if c.getLsbD 207 then .bp else .pf

/-- `C[206]` (R47). -/
def cFlag (c : DescWord) : Bool := c.getLsbD 206

/-- `C[205:200]` (R47). -/
def cBits (c : DescWord) : Count := c.extractLsb' 200 6

/-- `C[199:198]`, reserved (R47). -/
def cReserved (c : DescWord) : BitVec 2 := c.extractLsb' 198 2

/-- `C[197:192]` (R47). -/
def cTogglePos (c : DescWord) : Count := c.extractLsb' 192 6

/-- `C[191:160]` (R47). -/
def cStartMin (c : DescWord) : Time := c.extractLsb' 160 32

/-- `C[159:128]` (R47). -/
def cStartMax (c : DescWord) : Time := c.extractLsb' 128 32

/-- `C[127:96]` (R47). -/
def cBitMin (c : DescWord) : Time := c.extractLsb' 96 32

/-- `C[95:64]` (R47). -/
def cBitMax (c : DescWord) : Time := c.extractLsb' 64 32

/-- `C[63:32]`, `B4` (R47). -/
def cB4 (c : DescWord) : Time := c.extractLsb' 32 32

/-- `C[31:0]`, `B5` (R47). -/
def cB5 (c : DescWord) : Time := c.extractLsb' 0 32

/-- What CONFIG loads into the descriptor registers (R62). `togMax` is loaded for both kinds (entry 10). -/
def Descriptor.ofWord (c : DescWord) : Descriptor :=
  { kind := cKind c
    flag := cFlag c
    bits := cBits c
    togglePos := cTogglePos c
    startMin := cStartMin c
    startMax := cStartMax c
    bitMin := cBitMin c
    bitMax := cBitMax c
    b4 := cB4 c
    togMax := cB5 c }

/-- A descriptor word from its fields, the reserved bits 0 (R47, R55). -/
def descWord (kind : Kind) (flag : Bool) (bits togglePos : Count) (startMin startMax bitMin bitMax b4 b5 : Time) :
    DescWord :=
  BitVec.ofBool (kind == .bp) ++ BitVec.ofBool flag ++ bits ++ 0#2 ++ togglePos ++ startMin ++ startMax ++ bitMin ++ bitMax
    ++ b4 ++ b5

/-! ### The two names of a shared field -/

/-- `desc.distanceMode` (R16). -/
def Descriptor.distanceMode (d : Descriptor) : Bool := d.flag

/-- `desc.polarity` (R17). -/
def Descriptor.polarity (d : Descriptor) : Bool := d.flag

/-- `desc.bitSep` (R16). -/
def Descriptor.bitSep (d : Descriptor) : Time := d.b4

/-- `desc.togMin` (R17). -/
def Descriptor.togMin (d : Descriptor) : Time := d.b4

/-! ### The timing-bound pairs -/

/-- The lower bound of `bounds(p)` (R86). The unused selector is read as ORD, as R86 allows (entry 8). -/
def Descriptor.lo (d : Descriptor) : Pair → Time
  | .ord => d.bitMin
  | .start => d.startMin
  | .toggle => d.togMin
  | .unused => d.bitMin

/-- The upper bound of `bounds(p)` (R86). -/
def Descriptor.hi (d : Descriptor) : Pair → Time
  | .ord => d.bitMax
  | .start => d.startMax
  | .toggle => d.togMax
  | .unused => d.bitMax

/-- `next_pair(r)`; `togglePos + 1` does not wrap (R48, R91). -/
def Descriptor.nextPair (d : Descriptor) (r : Count) : Pair :=
  if r = d.togglePos ∨ r.toNat = d.togglePos.toNat + 1 then .toggle else .ord

end Sys2Proof.Machine
end

