-- ==== Sys2Proof/Machine/Flags.lean ====
section
/-! DEFINITION. The conditions the rules test. The block has no arithmetic flags (10_state R26); its flags `enabled`,
`cfgErr` and `er.toggle` are registers of State. Every comparison is strict and unsigned (00_scope R8, 41 R80). -/

namespace Sys2Proof.Machine

/-! ### valid(C), item by item (40_config R63) -/

/-- Item 1: the reserved bits are 0, for PF also `togglePos` and `B5`. -/
def validReserved (c : DescWord) : Bool :=
  cReserved c == 0#2 && (cKind c != .pf || (cTogglePos c == 0#6 && cB5 c == 0#32))

/-- Item 2: `1 <= bits <= 32`. -/
def validBits (c : DescWord) : Bool := decide (1 ≤ (cBits c).toNat) && decide ((cBits c).toNat ≤ 32)

/-- Item 3: `bitMin < bitMax`. -/
def validBitBounds (c : DescWord) : Bool := decide (cBitMin c < cBitMax c)

/-- Item 4: for PF, the start test is disabled or `startMin < startMax`. -/
def validStartPF (c : DescWord) : Bool := cKind c != .pf || cStartMax c == 0#32 || decide (cStartMin c < cStartMax c)

/-- Item 5: for BP, `startMin < startMax` and `togMin < togMax`. -/
def validPairsBP (c : DescWord) : Bool :=
  cKind c != .bp || (decide (cStartMin c < cStartMax c) && decide (cB4 c < cB5 c))

/-- `bp_distinguishable(C)`, the parameter (R4, R63 item 6; entry 3). -/
def bpDistinguishable (p : Params) (c : DescWord) : Bool := !p.bpRefused.contains c

/-- Item 6: for BP, `bp_distinguishable(C)`. -/
def validDistinguishable (p : Params) (c : DescWord) : Bool := cKind c != .bp || bpDistinguishable p c

/-- `valid(C)` (R63). -/
def valid (p : Params) (c : DescWord) : Bool :=
  validReserved c && validBits c && validBitBounds c && validStartPF c && validPairsBP c && validDistinguishable p c

/-! ### The edge tests -/

/-- The bit window of a pulse-fraction frame (R73). -/
abbrev inBitWindow (d : Descriptor) (e : Time) : Prop := d.bitMin < e ∧ e < d.bitMax

/-- The start test: disabled by `startMax == 0`, otherwise strict (R76). -/
abbrev startAccepted (d : Descriptor) (e : Time) : Prop := d.startMax = 0#32 ∨ (d.startMin < e ∧ e < d.startMax)

/-- The HELD test: silence longer than the repeat interval (R104). -/
abbrev silent (now : Time) (s : State) : Prop := s.par.repeatIntervalUs < elapsed now s.ws.ref

end Sys2Proof.Machine
end

