-- ==== Sys2Proof/Machine/Configure.lean ====
section
/-! DEFINITION. CONFIG (40_config R61, R62). -/

namespace Sys2Proof.Machine

/-- The restart of the session: the descriptor is loaded, the working state and the Event Record take their reset
values (R62). -/
def beginSession (c : DescWord) (s : State) : State :=
  ((s.setDesc (Descriptor.ofWord c)).clearWorking).clearRecord

/-- CONFIG (R62): the descriptor registers are written even when validation fails. -/
def configure (c : DescWord) (s : State) : State :=
  if valid s.par c then ((beginSession c s).setEnabled true).setCfgErr false
  else raiseConfigError (beginSession c s)

def execConfig (c : DescWord) (s : State) : Host.Outcome State Fault Refusal := .next (configure c s)

end Sys2Proof.Machine
end

