-- ==== Sys2Proof/Machine/PulseFraction.lean ====
section
/-! DEFINITION. EDGE under a pulse-fraction descriptor (41_pulse_fraction R70 to R79). -/

namespace Sys2Proof.Machine

/-- The accumulator half of `pf_bit`: a 1 bit is set at the index left after the decrement (R74). -/
def pfAssemble (e : Time) (s : State) : State :=
  if s.desc.bitSep < e then s.setAccBit s.ws.bitsRemaining else s

/-- A decrement that reached 0 completes the frame (R77). -/
def completeFrame (now : Time) (s : State) : State :=
  if s.ws.bitsRemaining = 0#6 then publish now s else s

/-- `pf_bit(elapsed, now)` (R74). -/
def pfBit (e now : Time) (s : State) : State :=
  completeFrame now (pfAssemble e (s.setBitsRemaining (s.ws.bitsRemaining - 1#6)))

/-- `pf_start(elapsed)` (R76). -/
def pfStart (e : Time) (s : State) : State :=
  if startAccepted s.desc e then (s.setBitsRemaining s.desc.bits).setAcc 0#32 else s

/-- The abort, which under `ABORT_FALLS_INTO_START` is tried as a start in the same operation (R75). -/
def pfAbort (e : Time) (s : State) : State :=
  if s.par.abortFallsIntoStart then pfStart e (s.setBitsRemaining 0#6) else s.setBitsRemaining 0#6

/-- A measuring edge after `ws.ref` took its time: the branch is chosen by the entry value of `ws.bitsRemaining`
(R73 to R76). -/
def pfMeasured (e now : Time) (s : State) : State :=
  if s.ws.bitsRemaining = 0#6 then pfStart e s
  else if inBitWindow s.desc e then pfBit e now s
  else pfAbort e s

/-- A non-measuring edge (R72). -/
def pfOther (now : Time) (s : State) : State :=
  if s.desc.distanceMode = false ∨ s.par.pfRefOnIdleEdge = true then s.setRef now else s

/-- `EDGE_PF(level, now)` (R79). -/
def edgePF (level : Bool) (now : Time) (s : State) : State :=
  if level = s.desc.distanceMode then pfMeasured (elapsed now s.ws.ref) now (s.setRef now) else pfOther now s

end Sys2Proof.Machine
end

