-- ==== Sys2Proof/Machine/BiPhase.lean ====
section
/-! DEFINITION. EDGE under a bi-phase descriptor (42_biphase R85 to R95). -/

namespace Sys2Proof.Machine

/-- `bp_begin(now)` (R87). -/
def bpBegin (now : Time) (s : State) : State :=
  (((s.setBitsRemaining s.desc.bits).setAcc 0#32).setRef now).setPair .start

/-- The accumulator half of `bp_midbit`: the toggle position is never set (R90). -/
def bpAssemble (level : Bool) (s : State) : State :=
  if level = s.desc.polarity ∧ s.ws.bitsRemaining ≠ s.desc.togglePos then s.setAccBit s.ws.bitsRemaining else s

/-- The end of `bp_midbit`: completion, or the pair for the next interval (R90 to R92). -/
def bpAdvance (now : Time) (s : State) : State :=
  if s.ws.bitsRemaining = 0#6 then publish now s else s.setPair (s.desc.nextPair s.ws.bitsRemaining)

/-- `bp_midbit(level, now)` (R90). -/
def bpMidbit (level : Bool) (now : Time) (s : State) : State :=
  bpAdvance now (bpAssemble level ((s.setRef now).setBitsRemaining (s.ws.bitsRemaining - 1#6)))

/-- The abort, which under `ABORT_FALLS_INTO_START` begins a frame when the edge rises (R94, R93). -/
def bpAbort (level : Bool) (now : Time) (s : State) : State :=
  if s.par.abortFallsIntoStart = true ∧ level = true then bpBegin now (s.setBitsRemaining 0#6) else s.setBitsRemaining 0#6

/-- An edge inside a frame: too late, the mid-bit transition, or ignored; the upper bound is tested first (R89). -/
def bpInFrame (level : Bool) (now : Time) (s : State) : State :=
  if elapsed now s.ws.ref < s.desc.hi s.ws.pair then
    if s.desc.lo s.ws.pair < elapsed now s.ws.ref then bpMidbit level now s else s
  else bpAbort level now s

/-- `EDGE_BP(level, now)` (R93). -/
def edgeBP (level : Bool) (now : Time) (s : State) : State :=
  if s.ws.bitsRemaining = 0#6 then (if level = true then bpBegin now s else s) else bpInFrame level now s

end Sys2Proof.Machine
end

