-- ==== Sys2Proof/Machine/Edge.lean ====
section
/-! DEFINITION. EDGE, dispatched by the bound descriptor (40_config R64, R66). -/

namespace Sys2Proof.Machine

/-- `EDGE(level, now)` (R64): ignored while disabled (R66). -/
def edge (level : Bool) (now : Time) (s : State) : State :=
  if s.enabled = false then s
  else
    match s.desc.kind with
    | .pf => edgePF level now s
    | .bp => edgeBP level now s

def execEdge (level : Bool) (ts : Time) (s : State) : Host.Outcome State Fault Refusal := .next (edge level ts s)

end Sys2Proof.Machine
end

