-- ==== Sys2Proof/Machine/Idle.lean ====
section
/-! DEFINITION. NOP (40_config R60). -/

namespace Sys2Proof.Machine

/-- NOP reads nothing, writes nothing and returns nothing, enabled or not (R60). -/
def execNop (s : State) : Host.Outcome State Fault Refusal := .next s

end Sys2Proof.Machine
end

