-- ==== Sys2Proof/Machine/Poll.lean ====
section
/-! DEFINITION. POLL and the button event state machine (43_event_state_machine R100 to R108). -/

namespace Sys2Proof.Machine

/-- From NONE: a pending code becomes PRESSED (R106). -/
def fromNone (s : State) : State := if s.er.code ≠ 0#32 then s.setButton .pressed else s

/-- From HELD: RELEASED after silence (R104). -/
def fromHeld (now : Time) (s : State) : State := if silent now s then s.setButton .released else s

/-- From PRESSED: HELD, and the HELD test in the same poll (R102, R103). -/
def fromPressed (now : Time) (s : State) : State := fromHeld now (s.setButton .held)

/-- From RELEASED: the code is cleared, the state is NONE, and NONE's test runs again (R105). -/
def fromReleased (s : State) : State := fromNone ((s.setCode 0#32).setButton .none)

/-- The transition of one poll, on the state the record had on entry (R100, R107). -/
def pollTransition (now : Time) (s : State) : State :=
  match s.er.state with
  | .none => fromNone s
  | .pressed => fromPressed now s
  | .held => fromHeld now s
  | .released => fromReleased s

/-- What a poll does before it returns: nothing while disabled (R66), else the poll time and one transition (R101, R107). -/
def pollRecord (now : Time) (s : State) : State :=
  if s.enabled = false then s else pollTransition now (s.setPollTime now)

/-- `POLL(now)` (R107): the snapshot returned is read after the transition (R108). -/
def poll (now : Time) (s : State) : State := returnSnapshot (pollRecord now s)

def execPoll (ts : Time) (s : State) : Host.Outcome State Fault Refusal := .next (poll ts s)

end Sys2Proof.Machine
end

