-- ==== Sys2Proof/Machine/Dispatch.lean ====
section
/-! DEFINITION. One arm per operation of the opcode table. -/

namespace Sys2Proof.Machine

def exec (i : Instr) (s : State) : Host.Outcome State Fault Refusal :=
  match i with
  | .nop => Sys2Proof.Machine.execNop s
  | .edge level ts => Sys2Proof.Machine.execEdge level ts s
  | .poll ts => Sys2Proof.Machine.execPoll ts s
  | .config c => Sys2Proof.Machine.execConfig c s

end Sys2Proof.Machine
end

