-- ==== Sys2Proof/Machine/Step.lean ====
section
/-! DEFINITION. One step: the next input of the trace is taken and applied (00_scope R5). The block has no program
counter (10_state R14): the environment supplies each operation whole. -/

namespace Sys2Proof.Machine

/-- One atomic transition (R5, R37): wait, reset, pass an illegal word over, or run the operation presented. -/
def step (s : State) : Host.Outcome State Fault Refusal :=
  match presented s with
  | .waiting => .next (afterInput s)
  | .reset => .next (hardReset (afterInput s))
  | .illegal e => .next (illegalWord e (afterInput s))
  | .operation i => exec i (afterInput s)

/-- `s` with the table word `w` presented next, its descriptor word beside it (entries 4, 16). -/
def State.withFetchWord (s : State) (nbits w : Nat) : State :=
  s.setTrace (.op (tableEventWord nbits w) (tableDescWord nbits w) :: s.trace)

end Sys2Proof.Machine
end

