-- ==== Sys2Proof/Machine/TraceText.lean ====
section
/-! DEFINITION. A trace in text form (30_encoding R54 to R56): its lines, parsed from characters, and the inputs they
stand for. Transport only: the machine reads the inputs, never the text. -/

namespace Sys2Proof.Machine

/-! ### From a line to inputs -/

/-- An operation presented by its canonical word, its descriptor on `cfg` (R43 to R46). -/
def inputOf (i : Instr) : Input := .op (encode i).1 (encode i).2

/-- An EDGE line (R55): level and time as numbers, the time modulo 2^32. -/
def edgeInput (level ts : Nat) : Input := inputOf (.edge (level == 1) (BitVec.ofNat 32 ts))

/-- A POLL line (R55). -/
def pollInput (ts : Nat) : Input := inputOf (.poll (BitVec.ofNat 32 ts))

/-- The edges of INTERVALS: each sum is the one before plus the next interval (R56); no interval, no edge (entry 20). -/
def intervalInputs (level : Nat) : Nat → List Nat → List Input
  | _, [] => []
  | t, d :: ds => edgeInput level (t + d) :: intervalInputs level (t + d) ds

/-- The polls of POLLS: `n` of them, `step` apart (R56); none for `n` = 0 (entry 20). -/
def pollInputs (step : Nat) : Nat → Nat → List Input
  | _, 0 => []
  | t, n + 1 => pollInput t :: pollInputs step (t + step) n

/-- The inputs a line stands for (R55, R56). -/
def lineInputs : TraceLine → List Input
  | .nop => [inputOf .nop]
  | .edge level ts => [edgeInput level ts]
  | .poll ts => [pollInput ts]
  | .configPF bits dm sMin sMax bMin bMax sep =>
      [inputOf (.config (descWord .pf (dm == 1) (BitVec.ofNat 6 bits) 0 (BitVec.ofNat 32 sMin) (BitVec.ofNat 32 sMax)
        (BitVec.ofNat 32 bMin) (BitVec.ofNat 32 bMax) (BitVec.ofNat 32 sep) 0))]
  | .configBP bits pol sMin sMax bMin bMax tMin tMax pos =>
      [inputOf (.config (descWord .bp (pol == 1) (BitVec.ofNat 6 bits) (BitVec.ofNat 6 pos) (BitVec.ofNat 32 sMin)
        (BitVec.ofNat 32 sMax) (BitVec.ofNat 32 bMin) (BitVec.ofNat 32 bMax) (BitVec.ofNat 32 tMin) (BitVec.ofNat 32 tMax)))]
  | .configRaw c => [inputOf (.config (BitVec.ofNat 208 c))]
  | .rise ts => [edgeInput 1 ts]
  | .fall ts => [edgeInput 0 ts]
  | .intervals level t0 ds => intervalInputs level t0 ds
  | .polls t0 step n => pollInputs step t0 n

/-- The inputs of a trace, executed top to bottom (R54); a line out of range makes the trace no trace (R55). -/
def traceInputs : List TraceLine → Option (List Input)
  | [] => some []
  | l :: ls =>
    match l.wellFormed, traceInputs ls with
    | true, some rest => some (lineInputs l ++ rest)
    | _, _ => none

/-! ### From characters to a line -/

/-- Cut a text at the characters `p` names. -/
def cut (p : Char → Bool) : List Char → List (List Char)
  | [] => [[]]
  | c :: cs =>
    match p c, cut p cs with
    | true, pieces => [] :: pieces
    | false, [] => [[c]]
    | false, piece :: pieces => (c :: piece) :: pieces

/-- A character between the words of a line (entry 15). -/
def isBlank (c : Char) : Bool := c == ' ' || c == '\t' || c == '\r'

/-- A `#` starts a comment to the end of the line (R54). -/
def dropComment : List Char → List Char
  | [] => []
  | c :: cs => if c == '#' then [] else c :: dropComment cs

/-- The words of a line. -/
def wordsOf (line : List Char) : List (List Char) := (cut isBlank (dropComment line)).filter (fun w => !w.isEmpty)

/-- A decimal digit. -/
def decDigit (c : Char) : Option Nat :=
  if '0'.toNat ≤ c.toNat ∧ c.toNat ≤ '9'.toNat then some (c.toNat - '0'.toNat) else none

/-- A hexadecimal digit, of either case (entry 15). -/
def hexDigit (c : Char) : Option Nat :=
  if 'a'.toNat ≤ c.toNat ∧ c.toNat ≤ 'f'.toNat then some (c.toNat - 'a'.toNat + 10)
  else if 'A'.toNat ≤ c.toNat ∧ c.toNat ≤ 'F'.toNat then some (c.toNat - 'A'.toNat + 10)
  else decDigit c

/-- Digits in a base, the most significant first, on top of the value `acc`. -/
def digits (digit : Char → Option Nat) (base : Nat) : Nat → List Char → Option Nat
  | acc, [] => some acc
  | acc, c :: cs =>
    match digit c with
    | some d => digits digit base (acc * base + d) cs
    | none => none

/-- A number: decimal unless prefixed `0x` (R54). -/
def number : List Char → Option Nat
  | [] => none
  | '0' :: 'x' :: [] => none
  | '0' :: 'x' :: ds => digits hexDigit 16 0 ds
  | ds => digits decDigit 10 0 ds

/-- A number after a given mark, such as `@800` or `+100` or `x5` (R55, R56). -/
def marked (mark : Char) : List Char → Option Nat
  | c :: cs => if c == mark then number cs else none
  | [] => none

/-- Several numbers. -/
def numbers : List (List Char) → Option (List Nat)
  | [] => some []
  | w :: ws =>
    match number w, numbers ws with
    | some n, some ns => some (n :: ns)
    | _, _ => none

/-- `key=value` words (R55). -/
def keyValues : List (List Char) → Option (List (List Char × Nat))
  | [] => some []
  | w :: ws =>
    match cut (· == '=') w, keyValues ws with
    | [k, v], some rest =>
      match number v with
      | some n => some ((k, n) :: rest)
      | none => none
    | _, _ => none

/-- The value of a key. -/
def valueOf (k : List Char) : List (List Char × Nat) → Option Nat
  | [] => none
  | (k', v) :: rest => if k' == k then some v else valueOf k rest

/-- The values of the keys, in the order asked for: every key is required, in any order, and no other may stand (R55). -/
def valuesOf (keys : List (List Char)) (kvs : List (List Char × Nat)) : Option (List Nat) :=
  if kvs.length = keys.length then keys.mapM (fun k => valueOf k kvs) else none

def keyBits : List Char := ['b', 'i', 't', 's']
def keyDistanceMode : List Char := ['d', 'i', 's', 't', 'a', 'n', 'c', 'e', 'M', 'o', 'd', 'e']
def keyPolarity : List Char := ['p', 'o', 'l', 'a', 'r', 'i', 't', 'y']
def keyStartMin : List Char := ['s', 't', 'a', 'r', 't', 'M', 'i', 'n']
def keyStartMax : List Char := ['s', 't', 'a', 'r', 't', 'M', 'a', 'x']
def keyBitMin : List Char := ['b', 'i', 't', 'M', 'i', 'n']
def keyBitMax : List Char := ['b', 'i', 't', 'M', 'a', 'x']
def keyBitSep : List Char := ['b', 'i', 't', 'S', 'e', 'p']
def keyTogMin : List Char := ['t', 'o', 'g', 'M', 'i', 'n']
def keyTogMax : List Char := ['t', 'o', 'g', 'M', 'a', 'x']
def keyTogglePos : List Char := ['t', 'o', 'g', 'g', 'l', 'e', 'P', 'o', 's']

/-- A CONFIG line after its first word (R55). -/
def configLine : List (List Char) → Option TraceLine
  | ['P', 'F'] :: ws =>
    match keyValues ws with
    | some kvs =>
      match valuesOf [keyBits, keyDistanceMode, keyStartMin, keyStartMax, keyBitMin, keyBitMax, keyBitSep] kvs with
      | some [bits, dm, sMin, sMax, bMin, bMax, sep] => some (.configPF bits dm sMin sMax bMin bMax sep)
      | _ => none
    | none => none
  | ['B', 'P'] :: ws =>
    match keyValues ws with
    | some kvs =>
      match valuesOf [keyBits, keyPolarity, keyStartMin, keyStartMax, keyBitMin, keyBitMax, keyTogMin, keyTogMax,
          keyTogglePos] kvs with
      | some [bits, pol, sMin, sMax, bMin, bMax, tMin, tMax, pos] =>
          some (.configBP bits pol sMin sMax bMin bMax tMin tMax pos)
      | _ => none
    | none => none
  | [['R', 'A', 'W'], '0' :: 'x' :: ds] =>
    if ds.length = 52 then (digits hexDigit 16 0 ds).map .configRaw else none
  | _ => none

/-- One line by its words (R55, R56). INTERVALS may have no interval and POLLS a count of 0: DESIGN CHOICE, entry 20. -/
def lineOf : List (List Char) → Option TraceLine
  | [['N', 'O', 'P']] => some .nop
  | [['E', 'D', 'G', 'E'], l, t] =>
    match number l, marked '@' t with
    | some level, some ts => some (.edge level ts)
    | _, _ => none
  | [['P', 'O', 'L', 'L'], t] => (marked '@' t).map .poll
  | ['C', 'O', 'N', 'F', 'I', 'G'] :: ws => configLine ws
  | [['R', 'I', 'S', 'E'], t] => (marked '@' t).map .rise
  | [['F', 'A', 'L', 'L'], t] => (marked '@' t).map .fall
  | ['I', 'N', 'T', 'E', 'R', 'V', 'A', 'L', 'S'] :: l :: t :: ds =>
    match number l, marked '@' t, numbers ds with
    | some level, some t0, some ds => some (.intervals level t0 ds)
    | _, _, _ => none
  | [['P', 'O', 'L', 'L', 'S'], t, st, n] =>
    match marked '@' t, marked '+' st, marked 'x' n with
    | some t0, some step, some n => some (.polls t0 step n)
    | _, _, _ => none
  | _ => none

/-- The lines of a text; a line without words is skipped (entry 15). -/
def linesOf : List (List (List Char)) → Option (List TraceLine)
  | [] => some []
  | [] :: rest => linesOf rest
  | ws :: rest =>
    match lineOf ws, linesOf rest with
    | some l, some ls => some (l :: ls)
    | _, _ => none

/-- A trace text, parsed (R54). -/
def parseTrace (text : List Char) : Option (List TraceLine) := linesOf ((cut (· == '\n') text).map wordsOf)

/-- Present a trace: its inputs are what the environment will present next (R54). -/
def State.present (s : State) (lines : List TraceLine) : Option State :=
  (traceInputs lines).map (fun l => s.setTrace (s.trace ++ l))

end Sys2Proof.Machine
end

