-- ==== Sys2Proof/Safety.lean ====
section
/-! DEFINITION. What claims are stated in: the invariants of 10_state R24, runs of operations, and the edge sequences
that are consistent with a descriptor (41 R83, 42 R99). -/

namespace Sys2Proof.Safety

open Sys2Proof.Machine

/-! ### The invariants of R24 and what stands beside them -/

/-- R24 (a), with the legal bit counts of R63 item 2. -/
structure FrameFits (s : State) : Prop where
  inFrame : s.ws.bitsRemaining ≤ s.desc.bits
  atLeastOne : 1 ≤ s.desc.bits.toNat
  atMostWidth : s.desc.bits.toNat ≤ 32

/-- R24 (b): no bit at an index the frame does not have, none at an index still to be received. -/
structure AccClean (s : State) : Prop where
  aboveFrame : ∀ i, s.desc.bits.toNat ≤ i → s.ws.acc.getLsbD i = false
  stillToCome : s.ws.bitsRemaining ≠ 0#6 → ∀ i, i < s.ws.bitsRemaining.toNat → s.ws.acc.getLsbD i = false

/-- R24 (e): the toggle position of a bi-phase frame reads 0 in the accumulator and in the code. -/
structure ToggleWithheld (s : State) : Prop where
  inAcc : s.desc.kind = .bp → s.ws.acc.getLsbD s.desc.togglePos.toNat = false
  inCode : s.desc.kind = .bp → s.er.code.getLsbD s.desc.togglePos.toNat = false

/-- The bounds a bound descriptor has passed (R63 items 3 to 5). -/
structure BoundsOrdered (d : Descriptor) : Prop where
  bit : d.bitMin < d.bitMax
  startPF : d.kind = .pf → d.startMax = 0#32 ∨ d.startMin < d.startMax
  pairsBP : d.kind = .bp → d.startMin < d.startMax ∧ d.togMin < d.togMax

/-- R24 of an enabled block: (a), (b), (c), (d), (e), and the bounds. -/
structure SessionInv (s : State) : Prop where
  frame : FrameFits s
  acc : AccClean s
  codeWhileActive : s.er.state ≠ .none → s.er.code ≠ 0#32
  pairLegal : s.ws.pair ≠ .unused
  toggle : ToggleWithheld s
  bounds : BoundsOrdered s.desc

/-- The invariant of the machine: R24 while enabled; at most one of the two flags (R19); a disabled block holds the
empty record and an idle decoder (R66). -/
structure MachineInv (s : State) : Prop where
  flags : ¬(s.enabled = true ∧ s.cfgErr = true)
  whileDisabled : s.enabled = false → s.ws = Working.zero ∧ s.er = EventRecord.zero
  whileEnabled : s.enabled = true → SessionInv s

/-! ### Runs -/

/-- Operations applied one after another (R5, R37). -/
def runOps : List Instr → State → Host.Outcome State Fault Refusal
  | [], s => .next s
  | i :: is, s =>
    match exec i s with
    | .next s' => runOps is s'
    | .fault r => .fault r
    | .refused r => .refused r

/-! ### Edge sequences consistent with a pulse-fraction descriptor -/

/-- One measured interval as the line shows it: any non-measuring edges, then the measuring edge. -/
structure PfPart where
  others : List Time
  now : Time
  deriving DecidableEq, Repr

/-- The edges of a part. -/
def PfPart.ops (d : Descriptor) (p : PfPart) : List Instr :=
  p.others.map (fun t => .edge (!d.distanceMode) t) ++ [.edge d.distanceMode p.now]

/-- The reference a part's measuring edge is measured from (R81): the last non-measuring edge where those write the
reference (R72), else what the reference was. -/
def PfPart.measuredFrom (d : Descriptor) (par : Params) (ref : Time) (p : PfPart) : Time :=
  if d.distanceMode = false ∨ par.pfRefOnIdleEdge = true then p.others.getLastD ref else ref

/-- The interval a part measures. -/
def PfPart.elapsed (d : Descriptor) (par : Params) (ref : Time) (p : PfPart) : Time :=
  Machine.elapsed p.now (p.measuredFrom d par ref)

/-- The bits of a frame, each within the bit window and on its own side of the separator (R73, R74). -/
def pfBitsFit (d : Descriptor) (par : Params) : Time → List Bool → List PfPart → Prop
  | _, [], [] => True
  | ref, b :: bs, p :: ps =>
    inBitWindow d (p.elapsed d par ref) ∧ b = decide (d.bitSep < p.elapsed d par ref) ∧ pfBitsFit d par p.now bs ps
  | _, _, _ => False

/-- The edges of several parts. -/
def pfOps (d : Descriptor) (ps : List PfPart) : List Instr := ps.flatMap (fun p => p.ops d)

/-- The time of the last measuring edge of a frame. -/
def pfLast (start : PfPart) (ps : List PfPart) : Time := (ps.getLastD start).now

/-! ### Edge sequences consistent with a bi-phase descriptor -/

/-- One mid-bit transition as the line shows it: any early edges, then the mid-bit edge. -/
structure BpPart where
  early : List (Bool × Time)
  level : Bool
  now : Time
  deriving DecidableEq, Repr

/-- The edges of a part. -/
def BpPart.ops (p : BpPart) : List Instr := p.early.map (fun e => .edge e.1 e.2) ++ [.edge p.level p.now]

/-- The mid-bit edges of a frame of which as many bits remain as there are parts, each strictly inside the pair in
force, every early edge no later than its lower bound (R99). -/
def bpBitsFit (d : Descriptor) : Time → Pair → List BpPart → Prop
  | _, _, [] => True
  | ref, pair, p :: ps =>
    (∀ e ∈ p.early, elapsed e.2 ref ≤ d.lo pair) ∧ d.lo pair < elapsed p.now ref ∧ elapsed p.now ref < d.hi pair ∧
      bpBitsFit d p.now (d.nextPair (BitVec.ofNat 6 ps.length)) ps

/-- The edges of several parts. -/
def bpOps (ps : List BpPart) : List Instr := ps.flatMap BpPart.ops

/-- The time of the last mid-bit edge of a frame begun at `start`. -/
def bpLast (start : Time) (ps : List BpPart) : Time := (ps.getLast?.map BpPart.now).getD start

/-! ### What a completed frame leaves -/

/-- A code assembled most significant bit first (R31, R74): the last of `bs` stands at index 0, no bit above the first. -/
def MsbFirst (bs : List Bool) (code : Code) : Prop :=
  ∀ i, code.getLsbD i = (decide (i < bs.length) && bs.getD (bs.length - 1 - i) false)

/-- The edge that brings a last 0 bit: a pulse-fraction interval no longer than the separator, or a bi-phase mid-bit edge
whose level is not the polarity or whose bit is the toggle bit. -/
abbrev completesWithZeroBit (s : State) (level : Bool) (now : Time) : Prop :=
  (s.desc.kind = .pf ∧ level = s.desc.flag ∧ s.desc.bitMin < now - s.ws.ref ∧ now - s.ws.ref < s.desc.bitMax ∧
    ¬ s.desc.b4 < now - s.ws.ref) ∨
  (s.desc.kind = .bp ∧ s.desc.lo s.ws.pair < now - s.ws.ref ∧ now - s.ws.ref < s.desc.hi s.ws.pair ∧
    (level ≠ s.desc.flag ∨ s.desc.togglePos = 0#6))

/-- The Event Record after a frame completed at `now` with this code (R78). -/
def published (e : EventRecord) (code : Code) (now : Time) : EventRecord :=
  if e.state = .none then { e with code := code, firstPress := now, toggle := !e.toggle } else e

end Sys2Proof.Safety
end

