-- ==== Sys2Proof/Certificates/Slice0/Obligations.lean ====
section
/-! DEFINITION. The statements for the provers. Each docstring names the rule of spec/ it formalises. Every statement
quantifies over every state, so over every value of the parameters of R4 (entry 1). -/

open Sys2Proof Sys2Proof.Machine Sys2Proof.Safety

/-! ### Encodings -/

/-- R46: every word with op 00 is NOP, whatever its other bits, and no other word is; the canonical NOP is 0. -/
def Obligations.NopWordsAreOpZero : Prop :=
  (∀ (w : EventWord) (cfg : DescWord), decode w cfg = .ok .nop ↔ w &&& 0xC00000000#36 = 0x000000000#36) ∧
    (encode .nop).1 = 0x000000000#36

/-- R43: the EDGE words, their operands where the rule puts them, and the rule's two examples. -/
def Obligations.EdgeWordsCarryLevelAndTime : Prop :=
  (∀ (w : EventWord) (cfg : DescWord) (level : Bool) (ts : Time),
      decode w cfg = .ok (.edge level ts) ↔
        w &&& 0xE00000000#36 = 0x400000000#36 ∧ w.getLsbD 32 = level ∧ w.extractLsb' 0 32 = ts) ∧
    (encode (.edge true 800)).1 = 0x500000320#36 ∧ (encode (.edge false 600)).1 = 0x400000258#36

/-- R44: the POLL words, the operand where the rule puts it, and the rule's example. -/
def Obligations.PollWordsCarryTime : Prop :=
  (∀ (w : EventWord) (cfg : DescWord) (ts : Time),
      decode w cfg = .ok (.poll ts) ↔ w &&& 0xF00000000#36 = 0x800000000#36 ∧ w.extractLsb' 0 32 = ts) ∧
    (encode (.poll 100000)).1 = 0x8000186A0#36

/-- R45: the one CONFIG word, which samples the descriptor word held on `cfg`. -/
def Obligations.ConfigWordSamplesDescriptorInput : Prop :=
  (∀ (w : EventWord) (cfg c : DescWord),
      decode w cfg = .ok (.config c) ↔ w &&& 0xFFFFFFFFF#36 = 0xC00000000#36 ∧ c = cfg) ∧
    ∀ c : DescWord, encode (.config c) = (0xC00000000#36, c)

/-- R51: the map by the top hexadecimal digit and, for digit C, the low 32 bits. -/
def Obligations.TopDigitSelectsOperation : Prop :=
  ∀ (w : EventWord) (cfg : DescWord),
    let d := (w.extractLsb' 32 4).toNat
    let ts := w.extractLsb' 0 32
    (d ≤ 3 → decode w cfg = .ok .nop) ∧
    (d = 4 → decode w cfg = .ok (.edge false ts)) ∧
    (d = 5 → decode w cfg = .ok (.edge true ts)) ∧
    (d = 6 ∨ d = 7 → decode w cfg = .error .edgeReservedBit) ∧
    (d = 8 → decode w cfg = .ok (.poll ts)) ∧
    (d = 9 ∨ d = 10 ∨ d = 11 → decode w cfg = .error .pollReservedBits) ∧
    (d = 12 ∧ ts = 0#32 → decode w cfg = .ok (.config cfg)) ∧
    (d = 12 ∧ ts ≠ 0#32 → decode w cfg = .error .configOperandBits) ∧
    (13 ≤ d → decode w cfg = .error .configOperandBits)

/-- A few of the words of 95_test_vectors section 2.1, written out from the spec. -/
def Obligations.SpecWordsDecode : Prop :=
  decode 0x123456789#36 0 = .ok .nop ∧ decode 0x5FFFFFFFF#36 0 = .ok (.edge true 4294967295) ∧
    decode 0x8000186A0#36 0 = .ok (.poll 100000) ∧ decode 0xC00000000#36 7 = .ok (.config 7) ∧
    decode 0x600000320#36 0 = .error .edgeReservedBit ∧ decode 0xC00000001#36 0 = .error .configOperandBits

/-- Decoding the encoding of any operation gives it back, with every operand at every value. -/
def Obligations.DecodeOfEncodeIsIdentity : Prop :=
  ∀ i : Instr, decode (encode i).1 (encode i).2 = .ok i

/-- Every word that decodes to an operation other than NOP is the canonical word of that operation. -/
def Obligations.OnlyNopHasSeveralWords : Prop :=
  ∀ (w : EventWord) (cfg : DescWord) (i : Instr), decode w cfg = .ok i → i ≠ .nop → (encode i).1 = w

/-- R49: the five fields of the snapshot word, with the numbers of R50 for the button states. -/
def Obligations.SnapshotWordLayout : Prop :=
  ∀ e : EventRecord,
    e.word.extractLsb' 97 2 = (match e.state with | .none => 0#2 | .pressed => 1#2 | .held => 2#2 | .released => 3#2) ∧
    e.word.getLsbD 96 = e.toggle ∧ e.word.extractLsb' 64 32 = e.code ∧ e.word.extractLsb' 32 32 = e.firstPress ∧
    e.word.extractLsb' 0 32 = e.pollTime

/-- No field of a snapshot is lost in its word. -/
def Obligations.SnapshotWordReadsBack : Prop :=
  ∀ e : EventRecord, EventRecord.ofWord e.word = e

/-- The descriptor word of R47 built from the fields of R55 loads exactly those fields (R62). -/
def Obligations.DescriptorWordReadsBack : Prop :=
  ∀ (kind : Kind) (flag : Bool) (bits togglePos : Count) (startMin startMax bitMin bitMax b4 b5 : Time),
    Descriptor.ofWord (descWord kind flag bits togglePos startMin startMax bitMin bitMax b4 b5) =
      { kind := kind, flag := flag, bits := bits, togglePos := togglePos, startMin := startMin, startMax := startMax,
        bitMin := bitMin, bitMax := bitMax, b4 := b4, togMax := b5 } ∧
    cReserved (descWord kind flag bits togglePos startMin startMax bitMin bitMax b4 b5) = 0#2

/-- R56: INTERVALS writes one edge of its level for each interval, at the running sum modulo 2^32. That a line without
an interval stands for no edge is the model's choice (DESIGN CHOICE, entry 20). -/
def Obligations.IntervalsLineExpandsToRunningSums : Prop :=
  ∀ (level t0 : Nat) (ds : List Nat),
    (lineInputs (.intervals level t0 ds)).length = ds.length ∧
    ∀ k, k < ds.length →
      (lineInputs (.intervals level t0 ds))[k]? =
        some (inputOf (.edge (level == 1) (BitVec.ofNat 32 (t0 + (ds.take (k + 1)).sum))))

/-- R56: POLLS writes `n` polls, `step` apart, modulo 2^32. That `n` may be 0, for no poll, is the model's choice
(DESIGN CHOICE, entry 20). -/
def Obligations.PollsLineExpandsToEqualSteps : Prop :=
  ∀ (t0 step n : Nat),
    (lineInputs (.polls t0 step n)).length = n ∧
    ∀ k, k < n → (lineInputs (.polls t0 step n))[k]? = some (inputOf (.poll (BitVec.ofNat 32 (t0 + k * step))))

/-! ### Arithmetic -/

/-- R8, R80: the elapsed time is the difference modulo 2^32, whichever of the two is the larger number; the wrap of R80. -/
def Obligations.ElapsedIsModularDifference : Prop :=
  (∀ now ref : Time, ((elapsed now ref).toNat : Int) = ((now.toNat : Int) - (ref.toNat : Int)) % 2 ^ 32) ∧
    elapsed 0x00000220#32 0xFFFFFF00#32 = 800#32

/-! ### The step -/

/-- A word of the opcode table's width, presented next to any state, is the operation the next step runs, on that state
(the place of the 36 bits in the table's 40 is the model's reading, entry 16). -/
def Obligations.TableWordIsRunByTheNextStep : Prop :=
  ∀ (s : State) (nbits w : Nat) (i : Instr), decodeTableWord nbits w = some i →
    step (s.withFetchWord nbits w) = exec i s

/-- The word presented next, decoded, is what the step runs, on the state with that input taken. -/
def Obligations.StepRunsDecodedOperation : Prop :=
  ∀ (s : State) (w : EventWord) (cfg : DescWord) (rest : List Input) (i : Instr),
    s.trace = .op w cfg :: rest → decode w cfg = .ok i → step s = exec i { s with trace := rest }

/-- R53, R119: an illegal word changes no register and returns nothing. -/
def Obligations.StepPassesOverIllegalWord : Prop :=
  ∀ (s : State) (w : EventWord) (cfg : DescWord) (rest : List Input) (e : DecodeError),
    s.trace = .op w cfg :: rest → decode w cfg = .error e → step s = .next { s with trace := rest }

/-- The block waits when nothing is presented (the model's reading, entry 6). -/
def Obligations.StepWaitsWithoutInput : Prop :=
  ∀ s : State, s.trace = [] → step s = .next s

/-- R130: reset, at any point of a trace, puts every register to 0, and no report is made. -/
def Obligations.ResetInputZeroesEveryRegister : Prop :=
  ∀ (s : State) (rest : List Input), s.trace = .reset :: rest →
    ∃ t, step s = .next t ∧
      t.desc = { kind := .pf, flag := false, bits := 0#6, togglePos := 0#6, startMin := 0#32, startMax := 0#32, bitMin := 0#32,
                 bitMax := 0#32, b4 := 0#32, togMax := 0#32 } ∧
      t.enabled = false ∧ t.cfgErr = false ∧
      t.ws = { bitsRemaining := 0#6, acc := 0#32, ref := 0#32, pair := .ord } ∧
      t.er = { code := 0#32, firstPress := 0#32, pollTime := 0#32, state := .none, toggle := false } ∧
      t.snaps = s.snaps

/-- R121: of an EDGE and a POLL ready together the EDGE is applied first. That the two are one input, and that the very
next step applies the POLL, is the model's reading (DEDUCED, entry 12). -/
def Obligations.SimultaneousEdgeGoesBeforePoll : Prop :=
  ∀ (s : State) (level : Bool) (tsEdge tsPoll : Time) (rest : List Input),
    s.trace = .edgeWithPoll level tsEdge tsPoll :: rest →
      ∃ r t, exec (.edge level tsEdge) { s with trace := r } = .next t ∧ step s = .next t ∧
        step t = exec (.poll tsPoll) { t with trace := rest }

/-- Every step of every state answers a next state, and takes one input: none when nothing is presented, and the EDGE alone
of an EDGE and a POLL ready together, whose POLL is presented next. That no step faults, a failed CONFIG included, is the
model's reading (DEDUCED, entry 14), and so is the simultaneous pair (DEDUCED, entry 12). -/
def Obligations.EveryStepAnswersNextAndTakesOneInput : Prop :=
  ∀ s : State, ∃ t, step s = .next t ∧ t.par = s.par ∧
    ((∀ level tsEdge tsPoll rest, s.trace ≠ .edgeWithPoll level tsEdge tsPoll :: rest) → t.trace = s.trace.tail) ∧
    ∀ level tsEdge tsPoll rest, s.trace = .edgeWithPoll level tsEdge tsPoll :: rest →
      t.trace = .op (encode (.poll tsPoll)).1 (encode (.poll tsPoll)).2 :: rest

/-- R27: the state after reset, and CONFIG writes the same values to the working state and the Event Record. -/
def Obligations.ResetStateHoldsZeros : Prop :=
  State.reset.desc = { kind := .pf, flag := false, bits := 0#6, togglePos := 0#6, startMin := 0#32, startMax := 0#32, bitMin := 0#32,
                       bitMax := 0#32, b4 := 0#32, togMax := 0#32 } ∧
  State.reset.enabled = false ∧ State.reset.cfgErr = false ∧
  State.reset.ws = { bitsRemaining := 0#6, acc := 0#32, ref := 0#32, pair := .ord } ∧
  State.reset.er = { code := 0#32, firstPress := 0#32, pollTime := 0#32, state := .none, toggle := false } ∧
  ∀ (c : DescWord) (s : State),
    ∃ t, exec (.config c) s = .next t ∧ t.ws = State.reset.ws ∧ t.er = State.reset.er

/-! ### NOP, CONFIG and the disabled block -/

/-- R60. -/
def Obligations.NopLeavesTheState : Prop :=
  ∀ s : State, exec .nop s = .next s

/-- R62: CONFIG loads the descriptor registers, restarts the session, and sets one of the two flags by valid(C). -/
def Obligations.ConfigLoadsAndRestarts : Prop :=
  ∀ (c : DescWord) (s : State),
    exec (.config c) s = .next
      { s with
        desc := { kind := if c.getLsbD 207 then .bp else .pf, flag := c.getLsbD 206, bits := c.extractLsb' 200 6,
                  togglePos := c.extractLsb' 192 6, startMin := c.extractLsb' 160 32, startMax := c.extractLsb' 128 32,
                  bitMin := c.extractLsb' 96 32, bitMax := c.extractLsb' 64 32, b4 := c.extractLsb' 32 32,
                  togMax := c.extractLsb' 0 32 }
        ws := { bitsRemaining := 0#6, acc := 0#32, ref := 0#32, pair := .ord }
        er := { code := 0#32, firstPress := 0#32, pollTime := 0#32, state := .none, toggle := false }
        enabled := valid s.par c
        cfgErr := !valid s.par c }

/-- R63: valid(C), item by item; item 6 is the parameter `bp_distinguishable` of R4, whatever descriptors it accepts. -/
def Obligations.ValidDescriptorConditions : Prop :=
  ∀ (p : Params) (c : DescWord),
    valid p c = true ↔
      c.extractLsb' 198 2 = 0#2 ∧
      (c.getLsbD 207 = false → c.extractLsb' 192 6 = 0#6 ∧ c.extractLsb' 0 32 = 0#32) ∧
      (1 ≤ (c.extractLsb' 200 6).toNat ∧ (c.extractLsb' 200 6).toNat ≤ 32) ∧
      c.extractLsb' 96 32 < c.extractLsb' 64 32 ∧
      (c.getLsbD 207 = false → c.extractLsb' 128 32 = 0#32 ∨ c.extractLsb' 160 32 < c.extractLsb' 128 32) ∧
      (c.getLsbD 207 = true →
        c.extractLsb' 160 32 < c.extractLsb' 128 32 ∧ c.extractLsb' 32 32 < c.extractLsb' 0 32 ∧ bpDistinguishable p c = true)

/-- R116, R123: a CONFIG of an invalid descriptor raises ConfigError, whatever was before; a step enters the ConfigError
condition only by such a CONFIG, and leaves it only by a CONFIG of a valid descriptor or by reset. -/
def Obligations.ConfigErrorOnlyByInvalidConfig : Prop :=
  (∀ (c : DescWord) (s : State), valid s.par c = false →
    ∃ t, exec (.config c) s = .next t ∧ t.cfgErr = true ∧ t.enabled = false ∧ t.ws = Working.zero ∧
      t.er = EventRecord.zero) ∧
  ∀ s t : State, step s = .next t →
    (t.cfgErr = true → s.cfgErr = false →
      ∃ w cfg rest, s.trace = .op w cfg :: rest ∧ decode w cfg = .ok (.config cfg) ∧ valid s.par cfg = false ∧
        t.enabled = false ∧ t.ws = Working.zero ∧ t.er = EventRecord.zero) ∧
    (t.cfgErr = false → s.cfgErr = true →
      (∃ rest, s.trace = .reset :: rest ∧ t.enabled = false) ∨
      ∃ w cfg rest, s.trace = .op w cfg :: rest ∧ decode w cfg = .ok (.config cfg) ∧ valid s.par cfg = true ∧
        t.enabled = true)

/-- R66: a disabled block ignores EDGE, and POLL returns the record as it stands, which the invariant makes
(NONE, 0, 0, 0, 0). -/
def Obligations.DisabledBlockIgnoresEdgeAndPoll : Prop :=
  ∀ (s : State) (level : Bool) (ts : Time), s.enabled = false →
    exec (.edge level ts) s = .next s ∧
    exec (.poll ts) s = .next { s with snaps := s.er.word :: s.snaps } ∧
    (MachineInv s → s.er.word = 0#99)

/-! ### EDGE under a pulse-fraction descriptor -/

/-- R72: a non-measuring edge writes `ws.ref` in width mode, or under `PF_REF_ON_IDLE_EDGE`, and nothing else ever. -/
def Obligations.PfNonMeasuringEdge : Prop :=
  ∀ (s : State) (level : Bool) (now : Time),
    s.enabled = true → s.desc.kind = .pf → level ≠ s.desc.flag →
      exec (.edge level now) s = .next
        { s with ws := { s.ws with
            ref := if s.desc.flag = false ∨ s.par.pfRefOnIdleEdge = true then now else s.ws.ref } }

/-- R71: every measuring edge writes `ws.ref`, whatever its outcome. -/
def Obligations.PfMeasuringEdgeWritesReference : Prop :=
  ∀ (s : State) (level : Bool) (now : Time),
    s.enabled = true → s.desc.kind = .pf → level = s.desc.flag →
      ∃ t, exec (.edge level now) s = .next t ∧ t.ws.ref = now

/-- R74 with R73, R77, R78: an interval inside the bit window is one bit, at the index left after the decrement, and the
last one completes the frame and publishes it if the button state is NONE. -/
def Obligations.PfBitIsAssembledAndPublished : Prop :=
  ∀ (s : State) (level : Bool) (now : Time),
    s.enabled = true → s.desc.kind = .pf → level = s.desc.flag → s.ws.bitsRemaining ≠ 0#6 →
    s.desc.bitMin < now - s.ws.ref → now - s.ws.ref < s.desc.bitMax →
      let n := s.ws.bitsRemaining - 1#6
      let acc := if s.desc.b4 < now - s.ws.ref then s.ws.acc ||| (1#32 <<< n.toNat) else s.ws.acc
      exec (.edge level now) s = .next
        { s with
          ws := { s.ws with ref := now, bitsRemaining := n, acc := acc }
          er := if n = 0#6 ∧ s.er.state = .none then { s.er with code := acc, firstPress := now, toggle := !s.er.toggle }
                else s.er }

/-- R75: an interval outside the bit window aborts the frame; the edge is tried as a start only under
`ABORT_FALLS_INTO_START`. -/
def Obligations.PfAbortDropsFrame : Prop :=
  ∀ (s : State) (level : Bool) (now : Time),
    s.enabled = true → s.desc.kind = .pf → level = s.desc.flag → s.ws.bitsRemaining ≠ 0#6 →
    ¬(s.desc.bitMin < now - s.ws.ref ∧ now - s.ws.ref < s.desc.bitMax) →
      exec (.edge level now) s = .next
        { s with ws :=
            if s.par.abortFallsIntoStart = true ∧
                (s.desc.startMax = 0#32 ∨ (s.desc.startMin < now - s.ws.ref ∧ now - s.ws.ref < s.desc.startMax)) then
              { s.ws with ref := now, bitsRemaining := s.desc.bits, acc := 0#32 }
            else { s.ws with ref := now, bitsRemaining := 0#6 } }

/-- R76: the start test of an idle block. -/
def Obligations.PfStartTestBeginsFrame : Prop :=
  ∀ (s : State) (level : Bool) (now : Time),
    s.enabled = true → s.desc.kind = .pf → level = s.desc.flag → s.ws.bitsRemaining = 0#6 →
      exec (.edge level now) s = .next
        { s with ws :=
            if s.desc.startMax = 0#32 ∨ (s.desc.startMin < now - s.ws.ref ∧ now - s.ws.ref < s.desc.startMax) then
              { s.ws with ref := now, bitsRemaining := s.desc.bits, acc := 0#32 }
            else { s.ws with ref := now } }

/-- R78, R118: while a button event is active no edge, of any kind and under either descriptor, writes the Event Record. -/
def Obligations.ActiveEventSuppressesPublication : Prop :=
  ∀ (s : State) (level : Bool) (now : Time), s.er.state ≠ .none →
    ∃ t, exec (.edge level now) s = .next t ∧ t.er = s.er

/-- R138, under either descriptor: a frame that completes in NONE with `ws.acc` = 0 is reported by no poll, however many
follow, yet it writes the first-press time and inverts the toggle, and every NONE snapshot that follows shows both. -/
def Obligations.AllZeroCodeIsNeverReported : Prop :=
  ∀ (s : State) (level : Bool) (now : Time) (times : List Time),
    s.enabled = true → s.ws.bitsRemaining = 1#6 → s.ws.acc = 0#32 → s.er.state = .none →
    completesWithZeroBit s level now →
      ∃ t, runOps (.edge level now :: times.map .poll) s = .next t ∧ t.ws.bitsRemaining = 0#6 ∧
        t.er = { code := 0#32, firstPress := now, pollTime := times.getLastD s.er.pollTime, state := .none,
                 toggle := !s.er.toggle } ∧
        t.snaps = (times.map (fun ts => ({ code := 0#32, firstPress := now, pollTime := ts, state := .none,
                                           toggle := !s.er.toggle } : EventRecord).word)).reverse ++ s.snaps

/-! ### EDGE under a bi-phase descriptor -/

/-- R86: the bounds of the three pairs. -/
def Obligations.PairBoundsFollowSelector : Prop :=
  ∀ d : Descriptor,
    (d.lo .ord = d.bitMin ∧ d.hi .ord = d.bitMax) ∧ (d.lo .start = d.startMin ∧ d.hi .start = d.startMax) ∧
    (d.lo .toggle = d.b4 ∧ d.hi .toggle = d.togMax)

/-- R85: an idle block ignores a falling edge. -/
def Obligations.BpIdleFallingEdgeIsIgnored : Prop :=
  ∀ (s : State) (now : Time),
    s.enabled = true → s.desc.kind = .bp → s.ws.bitsRemaining = 0#6 → exec (.edge false now) s = .next s

/-- R87: a rising edge while idle begins a frame. -/
def Obligations.BpIdleRisingEdgeBeginsFrame : Prop :=
  ∀ (s : State) (now : Time),
    s.enabled = true → s.desc.kind = .bp → s.ws.bitsRemaining = 0#6 →
      exec (.edge true now) s = .next
        { s with ws := { bitsRemaining := s.desc.bits, acc := 0#32, ref := now, pair := .start } }

/-- R90 with R91, R92: the mid-bit transition. `lo` and `hi` are the bounds of the pair in force (R86). -/
def Obligations.BpMidbitIsAssembledAndPublished : Prop :=
  ∀ (s : State) (level : Bool) (now : Time),
    s.enabled = true → s.desc.kind = .bp → s.ws.bitsRemaining ≠ 0#6 →
    s.desc.lo s.ws.pair < now - s.ws.ref → now - s.ws.ref < s.desc.hi s.ws.pair →
      let n := s.ws.bitsRemaining - 1#6
      let acc := if level = s.desc.flag ∧ n ≠ s.desc.togglePos then s.ws.acc ||| (1#32 <<< n.toNat) else s.ws.acc
      exec (.edge level now) s = .next
        { s with
          ws := { ref := now, bitsRemaining := n, acc := acc
                  pair := if n = 0#6 then s.ws.pair
                          else if n.toNat = s.desc.togglePos.toNat ∨ n.toNat = s.desc.togglePos.toNat + 1 then .toggle
                          else .ord }
          er := if n = 0#6 ∧ s.er.state = .none then { s.er with code := acc, firstPress := now, toggle := !s.er.toggle }
                else s.er }

/-- R94: an edge at or after the upper bound aborts the frame and writes nothing else; a rising one begins a frame only
under `ABORT_FALLS_INTO_START`. -/
def Obligations.BpLateEdgeAbortsFrame : Prop :=
  ∀ (s : State) (level : Bool) (now : Time),
    s.enabled = true → s.desc.kind = .bp → s.ws.bitsRemaining ≠ 0#6 → ¬ now - s.ws.ref < s.desc.hi s.ws.pair →
      exec (.edge level now) s = .next
        { s with ws :=
            if s.par.abortFallsIntoStart = true ∧ level = true then
              { bitsRemaining := s.desc.bits, acc := 0#32, ref := now, pair := .start }
            else { s.ws with bitsRemaining := 0#6 } }

/-- R95: a sub-bit-period edge writes nothing. -/
def Obligations.BpEarlyEdgeIsIgnored : Prop :=
  ∀ (s : State) (level : Bool) (now : Time),
    s.enabled = true → s.desc.kind = .bp → s.ws.bitsRemaining ≠ 0#6 → now - s.ws.ref < s.desc.hi s.ws.pair →
    ¬ s.desc.lo s.ws.pair < now - s.ws.ref → exec (.edge level now) s = .next s

/-! ### POLL -/

/-- R106, R101: a poll in NONE reports a pending code as PRESSED, and changes nothing but the poll time otherwise. -/
def Obligations.PollFromNone : Prop :=
  ∀ (s : State) (now : Time), s.enabled = true → s.er.state = .none →
    let er := { s.er with pollTime := now, state := if s.er.code ≠ 0#32 then .pressed else .none }
    exec (.poll now) s = .next { s with er := er, snaps := er.word :: s.snaps }

/-- R102, R103: a poll in PRESSED reports HELD, or RELEASED at once if the silence is already too long. -/
def Obligations.PollFromPressed : Prop :=
  ∀ (s : State) (now : Time), s.enabled = true → s.er.state = .pressed →
    let er := { s.er with pollTime := now, state := if s.par.repeatIntervalUs < now - s.ws.ref then .released else .held }
    exec (.poll now) s = .next { s with er := er, snaps := er.word :: s.snaps }

/-- R104: a poll in HELD reports RELEASED when the silence exceeds the repeat interval, and the record is otherwise
untouched. -/
def Obligations.PollFromHeld : Prop :=
  ∀ (s : State) (now : Time), s.enabled = true → s.er.state = .held →
    let er := { s.er with pollTime := now, state := if s.par.repeatIntervalUs < now - s.ws.ref then .released else .held }
    exec (.poll now) s = .next { s with er := er, snaps := er.word :: s.snaps }

/-- R105, R106, R107: a poll in RELEASED clears the code, and only the code, and ends in NONE. That it always ends there is
the spec's inference (R105, from R106 and R36) and rests on the poll being atomic (entry 19). -/
def Obligations.PollFromReleased : Prop :=
  ∀ (s : State) (now : Time), s.enabled = true → s.er.state = .released →
    let er := { s.er with pollTime := now, state := .none, code := 0#32 }
    exec (.poll now) s = .next { s with er := er, snaps := er.word :: s.snaps }

/-- R108: what POLL returns is the record after its own transition, and one word of it. -/
def Obligations.PollReturnsRecordAfterTransition : Prop :=
  ∀ (s : State) (now : Time), ∃ t, exec (.poll now) s = .next t ∧ t.snaps = t.er.word :: s.snaps

/-- R109, under the invariant: a NONE report has code 0, every other a nonzero code, and the poll time is this poll's. -/
def Obligations.ReportsCarryTheirCode : Prop :=
  ∀ (s : State) (now : Time), MachineInv s → s.enabled = true →
    ∃ t, exec (.poll now) s = .next t ∧ (t.er.state = .none ↔ t.er.code = 0#32) ∧ t.er.pollTime = now

/-- R112 (g), R100: the reports that can follow one another with no CONFIG or reset between. -/
def Obligations.ButtonStatesFollowTheCycle : Prop :=
  ∀ (s : State) (now : Time), s.enabled = true →
    ∃ t, exec (.poll now) s = .next t ∧
      (s.er.state = .none → t.er.state = .none ∨ t.er.state = .pressed) ∧
      (s.er.state = .pressed → t.er.state = .held ∨ t.er.state = .released) ∧
      (s.er.state = .held → t.er.state = .held ∨ t.er.state = .released) ∧
      (s.er.state = .released → t.er.state = .none)

/-- The isolated press (R103, R110): one nonzero code pending, then silence longer than the repeat interval at the second
poll, is reported PRESSED, RELEASED, NONE, never HELD. -/
def Obligations.IsolatedPressIsPressedReleasedNone : Prop :=
  ∀ (s : State) (t1 t2 t3 : Time),
    s.enabled = true → s.er.state = .none → s.er.code ≠ 0#32 → s.par.repeatIntervalUs < t2 - s.ws.ref →
      ∃ t, runOps [.poll t1, .poll t2, .poll t3] s = .next t ∧
        t.snaps =
          ({ s.er with state := .none, code := 0#32, pollTime := t3 } : EventRecord).word ::
          ({ s.er with state := .released, pollTime := t2 } : EventRecord).word ::
          ({ s.er with state := .pressed, pollTime := t1 } : EventRecord).word :: s.snaps ∧
        t.ws = s.ws ∧ t.desc = s.desc ∧ t.er.toggle = s.er.toggle ∧ t.er.firstPress = s.er.firstPress

/-- R110: however many polls come within the repeat interval of `ws.ref`, a button stays HELD, with the code, the time
and the toggle of its press. -/
def Obligations.HeldWhilePolledWithinInterval : Prop :=
  ∀ (times : List Time) (s : State), s.enabled = true → s.er.state = .pressed ∨ s.er.state = .held →
    times ≠ [] → (∀ now ∈ times, ¬ s.par.repeatIntervalUs < now - s.ws.ref) →
      ∃ t, runOps (times.map .poll) s = .next t ∧
        t.er = { s.er with state := .held, pollTime := times.getLastD 0 } ∧
        t.snaps = (times.map (fun now => ({ s.er with state := .held, pollTime := now } : EventRecord).word)).reverse ++ s.snaps

/-! ### Frames over the whole machine -/

/-- R25, the EDGE column: what an EDGE leaves unchanged, under either descriptor and in every case. -/
def Obligations.EdgeFrame : Prop :=
  ∀ (s : State) (level : Bool) (now : Time), ∃ t, exec (.edge level now) s = .next t ∧
    t.desc = s.desc ∧ t.enabled = s.enabled ∧ t.cfgErr = s.cfgErr ∧ t.er.state = s.er.state ∧
    t.er.pollTime = s.er.pollTime ∧ (s.desc.kind = .pf → t.ws.pair = s.ws.pair) ∧
    t.par = s.par ∧ t.trace = s.trace ∧ t.snaps = s.snaps

/-- R25, the POLL column: what a POLL leaves unchanged; it writes the code only from RELEASED, and then to 0. -/
def Obligations.PollFrame : Prop :=
  ∀ (s : State) (now : Time), ∃ t, exec (.poll now) s = .next t ∧
    t.desc = s.desc ∧ t.enabled = s.enabled ∧ t.cfgErr = s.cfgErr ∧ t.ws = s.ws ∧ t.er.firstPress = s.er.firstPress ∧
    t.er.toggle = s.er.toggle ∧ (t.er.code ≠ s.er.code → s.er.state = .released ∧ t.er.code = 0#32) ∧
    t.par = s.par ∧ t.trace = s.trace

/-- R18: a step changes a descriptor register only by CONFIG or reset. -/
def Obligations.DescriptorChangesOnlyByConfigOrReset : Prop :=
  ∀ s t : State, step s = .next t → t.desc ≠ s.desc →
    (∃ rest, s.trace = .reset :: rest) ∨
    (∃ w cfg rest, s.trace = .op w cfg :: rest ∧ decode w cfg = .ok (.config cfg))

/-- R22: a step changes the button state only by POLL, CONFIG or reset. -/
def Obligations.ButtonStateChangesOnlyByPollConfigOrReset : Prop :=
  ∀ s t : State, step s = .next t → t.er.state ≠ s.er.state →
    (∃ rest, s.trace = .reset :: rest) ∨
    (∃ w cfg rest, s.trace = .op w cfg :: rest ∧
      (decode w cfg = .ok (.config cfg) ∨ ∃ ts, decode w cfg = .ok (.poll ts)))

/-- R23: a step changes the toggle only by a publication, which inverts it, or by CONFIG or reset, which clear it. -/
def Obligations.ToggleChangesOnlyByPublicationConfigOrReset : Prop :=
  ∀ s t : State, step s = .next t → t.er.toggle ≠ s.er.toggle →
    (∃ rest, s.trace = .reset :: rest ∧ t.er.toggle = false) ∨
    (∃ w cfg rest, s.trace = .op w cfg :: rest ∧ decode w cfg = .ok (.config cfg) ∧ t.er.toggle = false) ∨
    (∃ level now,
      ((∃ w cfg rest, s.trace = .op w cfg :: rest ∧ decode w cfg = .ok (.edge level now)) ∨
        ∃ tsPoll rest, s.trace = .edgeWithPoll level now tsPoll :: rest) ∧
      s.enabled = true ∧ s.er.state = .none ∧ s.ws.bitsRemaining = 1#6 ∧ t.ws.bitsRemaining = 0#6 ∧
      t.er = { s.er with code := t.ws.acc, firstPress := now, toggle := !s.er.toggle })

/-! ### Invariants -/

/-- The invariant of R24, R19 and R66 holds at reset. -/
def Obligations.InvariantHoldsAtReset : Prop := MachineInv State.reset

/-- R24: every step keeps the invariant, from every state that meets it, whatever the parameters. -/
def Obligations.StepKeepsSessionInvariant : Prop :=
  ∀ s t : State, MachineInv s → step s = .next t → MachineInv t

/-! ### Whole frames -/

/-- R83, pulse-fraction: from any idle state, an edge sequence consistent with the descriptor decodes to the code its
bits spell, most significant bit first, and publishes it if the button state is NONE. -/
def Obligations.PfFrameDecodesToItsBits : Prop :=
  ∀ (s : State) (start : PfPart) (bs : List Bool) (ps : List PfPart),
    s.enabled = true → s.desc.kind = .pf → s.ws.bitsRemaining = 0#6 → bs.length = s.desc.bits.toNat →
    1 ≤ bs.length → bs.length ≤ 32 →
    startAccepted s.desc (start.elapsed s.desc s.par s.ws.ref) → pfBitsFit s.desc s.par start.now bs ps →
      ∃ t code, runOps (pfOps s.desc (start :: ps)) s = .next t ∧ MsbFirst bs code ∧
        t = { s with ws := { s.ws with bitsRemaining := 0#6, acc := code, ref := pfLast start ps }
                     er := published s.er code (pfLast start ps) }

/-- R83, self-recovery: a violation inside a pulse-fraction frame drops it, and the next well-formed frame decodes,
unless the violating interval itself opens a frame under `ABORT_FALLS_INTO_START`. -/
def Obligations.PfFrameAfterViolationDecodes : Prop :=
  ∀ (s : State) (bad : Time) (start : PfPart) (bs : List Bool) (ps : List PfPart),
    s.enabled = true → s.desc.kind = .pf → s.ws.bitsRemaining ≠ 0#6 →
    ¬ inBitWindow s.desc (elapsed bad s.ws.ref) →
    (s.par.abortFallsIntoStart = false ∨ ¬ startAccepted s.desc (elapsed bad s.ws.ref)) →
    bs.length = s.desc.bits.toNat → 1 ≤ bs.length → bs.length ≤ 32 →
    startAccepted s.desc (start.elapsed s.desc s.par bad) → pfBitsFit s.desc s.par start.now bs ps →
      ∃ t code, runOps (.edge s.desc.distanceMode bad :: pfOps s.desc (start :: ps)) s = .next t ∧ MsbFirst bs code ∧
        t.er = published s.er code (pfLast start ps) ∧ t.ws.bitsRemaining = 0#6

/-- R99, bi-phase: from any idle state, a rising start edge and one mid-bit edge for each bit, each inside the pair in
force, with early edges between, decodes to the code whose bits are the mid-bit levels that equal the polarity, the
toggle position reading 0. -/
def Obligations.BpFrameDecodesToItsLevels : Prop :=
  ∀ (s : State) (start : Time) (ps : List BpPart),
    s.enabled = true → s.desc.kind = .bp → s.ws.bitsRemaining = 0#6 → BoundsOrdered s.desc →
    ps.length = s.desc.bits.toNat → 1 ≤ ps.length → ps.length ≤ 32 → bpBitsFit s.desc start .start ps →
      ∃ t code, runOps (.edge true start :: bpOps ps) s = .next t ∧
        (∀ i, code.getLsbD i =
          (decide (i < ps.length) && ((ps.map BpPart.level).getD (ps.length - 1 - i) false == s.desc.polarity) &&
            decide (i ≠ s.desc.togglePos.toNat))) ∧
        t.er = published s.er code (bpLast start ps) ∧ t.ws.bitsRemaining = 0#6 ∧ t.ws.acc = code ∧
        t.ws.ref = bpLast start ps ∧ t.desc = s.desc ∧ t.snaps = s.snaps

/-- R94, R99, self-recovery: an edge too late inside a bi-phase frame drops it, and the next frame decodes (the late edge
itself begins none: it falls, or the parameter is at its default). -/
def Obligations.BpFrameAfterViolationDecodes : Prop :=
  ∀ (s : State) (level : Bool) (bad start : Time) (ps : List BpPart),
    s.enabled = true → s.desc.kind = .bp → s.ws.bitsRemaining ≠ 0#6 → BoundsOrdered s.desc →
    ¬ elapsed bad s.ws.ref < s.desc.hi s.ws.pair → (s.par.abortFallsIntoStart = false ∨ level = false) →
    ps.length = s.desc.bits.toNat → 1 ≤ ps.length → ps.length ≤ 32 → bpBitsFit s.desc start .start ps →
      ∃ t code, runOps (.edge level bad :: .edge true start :: bpOps ps) s = .next t ∧
        (∀ i, code.getLsbD i =
          (decide (i < ps.length) && ((ps.map BpPart.level).getD (ps.length - 1 - i) false == s.desc.polarity) &&
            decide (i ≠ s.desc.togglePos.toNat))) ∧
        t.er = published s.er code (bpLast start ps) ∧ t.ws.bitsRemaining = 0#6
end

