-- ==== Sys2Proof/Laws/Decode.lean ====
section
/-! SUPPORT. The event word and its four fields: each field of a word built from fields is that field, and every word is
built from its fields (30_encoding R41). -/

namespace Sys2Proof

theorem eventWord_getLsbD (op : BitVec 2) (z l : Bool) (ts : Time) (i : Nat) :
    (eventWord op z l ts).getLsbD i =
      if i < 32 then ts.getLsbD i else if i = 32 then l else if i = 33 then z else op.getLsbD (i - 34) := by
  unfold eventWord
  simp only [BitVec.getLsbD_append, BitVec.getLsbD_ofBool]
  by_cases h : i < 32
  · simp [h]
  · by_cases h1 : i = 32
    · subst h1; simp
    · by_cases h2 : i = 33
      · subst h2; simp
      · have a : ¬ (i - 32 < 1) := by omega
        have b : ¬ (i - 32 - 1 < 1) := by omega
        simp [h, h1, h2, a, b, show i - 32 - 1 - 1 = i - 34 by omega]

@[simp] theorem opField_eventWord (op : BitVec 2) (z l : Bool) (ts : Time) : opField (eventWord op z l ts) = op := by
  apply BitVec.eq_of_getLsbD_eq
  intro i hi
  simp [opField, eventWord_getLsbD, show ¬ (34 + i < 32) by omega, show ¬ (34 + i = 32) by omega, show ¬ (34 + i = 33) by omega, hi]

@[simp] theorem zField_eventWord (op : BitVec 2) (z l : Bool) (ts : Time) : zField (eventWord op z l ts) = z := by
  simp only [zField, eventWord_getLsbD]; rfl

@[simp] theorem lvlField_eventWord (op : BitVec 2) (z l : Bool) (ts : Time) : lvlField (eventWord op z l ts) = l := by
  simp only [lvlField, eventWord_getLsbD]; rfl

@[simp] theorem tsField_eventWord (op : BitVec 2) (z l : Bool) (ts : Time) : tsField (eventWord op z l ts) = ts := by
  apply BitVec.eq_of_getLsbD_eq
  intro i hi
  simp [tsField, eventWord_getLsbD, hi]

theorem eventWord_fields (w : EventWord) : eventWord (opField w) (zField w) (lvlField w) (tsField w) = w := by
  apply BitVec.eq_of_getLsbD_eq
  intro i hi
  rw [eventWord_getLsbD]
  by_cases h : i < 32
  · simp [h, tsField]
  · by_cases h1 : i = 32
    · subst h1; simp [lvlField]
    · by_cases h2 : i = 33
      · subst h2; simp [zField]
      · simp [h, h1, h2, opField, show i - 34 < 2 by omega, show 34 + (i - 34) = i by omega]

theorem eventWord_inj (op op' : BitVec 2) (z l z' l' : Bool) (ts ts' : Time) :
    eventWord op z l ts = eventWord op' z' l' ts' ↔ op = op' ∧ z = z' ∧ l = l' ∧ ts = ts' := by
  constructor
  · intro h
    have ho := congrArg opField h
    have hz := congrArg zField h
    have hl := congrArg lvlField h
    have ht := congrArg tsField h
    simp only [opField_eventWord, zField_eventWord, lvlField_eventWord, tsField_eventWord] at ho hz hl ht
    exact ⟨ho, hz, hl, ht⟩
  · rintro ⟨rfl, rfl, rfl, rfl⟩
    rfl

theorem eventWord_and (op op' : BitVec 2) (z l z' l' : Bool) (ts ts' : Time) :
    eventWord op z l ts &&& eventWord op' z' l' ts' = eventWord (op &&& op') (z && z') (l && l') (ts &&& ts') := by
  apply BitVec.eq_of_getLsbD_eq
  intro i hi
  simp only [BitVec.getLsbD_and, eventWord_getLsbD]
  split_ifs <;> rfl

end Sys2Proof
end

