-- ==== Sys2Proof/Laws/State.lean ====
section
/-! SUPPORT. One lemma per field per update of State (Machine/Ops.lean): later proofs unfold no record update. -/

namespace Sys2Proof.Machine

variable (s : State)

@[simp] theorem State.setDesc_desc (d : Descriptor) : (s.setDesc d).desc = d := rfl
@[simp] theorem State.setDesc_enabled (d : Descriptor) : (s.setDesc d).enabled = s.enabled := rfl
@[simp] theorem State.setDesc_cfgErr (d : Descriptor) : (s.setDesc d).cfgErr = s.cfgErr := rfl
@[simp] theorem State.setDesc_ws (d : Descriptor) : (s.setDesc d).ws = s.ws := rfl
@[simp] theorem State.setDesc_er (d : Descriptor) : (s.setDesc d).er = s.er := rfl
@[simp] theorem State.setDesc_par (d : Descriptor) : (s.setDesc d).par = s.par := rfl
@[simp] theorem State.setDesc_trace (d : Descriptor) : (s.setDesc d).trace = s.trace := rfl
@[simp] theorem State.setDesc_snaps (d : Descriptor) : (s.setDesc d).snaps = s.snaps := rfl

@[simp] theorem State.setEnabled_desc (b : Bool) : (s.setEnabled b).desc = s.desc := rfl
@[simp] theorem State.setEnabled_enabled (b : Bool) : (s.setEnabled b).enabled = b := rfl
@[simp] theorem State.setEnabled_cfgErr (b : Bool) : (s.setEnabled b).cfgErr = s.cfgErr := rfl
@[simp] theorem State.setEnabled_ws (b : Bool) : (s.setEnabled b).ws = s.ws := rfl
@[simp] theorem State.setEnabled_er (b : Bool) : (s.setEnabled b).er = s.er := rfl
@[simp] theorem State.setEnabled_par (b : Bool) : (s.setEnabled b).par = s.par := rfl
@[simp] theorem State.setEnabled_trace (b : Bool) : (s.setEnabled b).trace = s.trace := rfl
@[simp] theorem State.setEnabled_snaps (b : Bool) : (s.setEnabled b).snaps = s.snaps := rfl

@[simp] theorem State.setCfgErr_desc (b : Bool) : (s.setCfgErr b).desc = s.desc := rfl
@[simp] theorem State.setCfgErr_enabled (b : Bool) : (s.setCfgErr b).enabled = s.enabled := rfl
@[simp] theorem State.setCfgErr_cfgErr (b : Bool) : (s.setCfgErr b).cfgErr = b := rfl
@[simp] theorem State.setCfgErr_ws (b : Bool) : (s.setCfgErr b).ws = s.ws := rfl
@[simp] theorem State.setCfgErr_er (b : Bool) : (s.setCfgErr b).er = s.er := rfl
@[simp] theorem State.setCfgErr_par (b : Bool) : (s.setCfgErr b).par = s.par := rfl
@[simp] theorem State.setCfgErr_trace (b : Bool) : (s.setCfgErr b).trace = s.trace := rfl
@[simp] theorem State.setCfgErr_snaps (b : Bool) : (s.setCfgErr b).snaps = s.snaps := rfl

@[simp] theorem State.setBitsRemaining_desc (n : Count) : (s.setBitsRemaining n).desc = s.desc := rfl
@[simp] theorem State.setBitsRemaining_enabled (n : Count) : (s.setBitsRemaining n).enabled = s.enabled := rfl
@[simp] theorem State.setBitsRemaining_cfgErr (n : Count) : (s.setBitsRemaining n).cfgErr = s.cfgErr := rfl
@[simp] theorem State.setBitsRemaining_ws (n : Count) : (s.setBitsRemaining n).ws = { s.ws with bitsRemaining := n } := rfl
@[simp] theorem State.setBitsRemaining_er (n : Count) : (s.setBitsRemaining n).er = s.er := rfl
@[simp] theorem State.setBitsRemaining_par (n : Count) : (s.setBitsRemaining n).par = s.par := rfl
@[simp] theorem State.setBitsRemaining_trace (n : Count) : (s.setBitsRemaining n).trace = s.trace := rfl
@[simp] theorem State.setBitsRemaining_snaps (n : Count) : (s.setBitsRemaining n).snaps = s.snaps := rfl

@[simp] theorem State.setAcc_desc (a : Code) : (s.setAcc a).desc = s.desc := rfl
@[simp] theorem State.setAcc_enabled (a : Code) : (s.setAcc a).enabled = s.enabled := rfl
@[simp] theorem State.setAcc_cfgErr (a : Code) : (s.setAcc a).cfgErr = s.cfgErr := rfl
@[simp] theorem State.setAcc_ws (a : Code) : (s.setAcc a).ws = { s.ws with acc := a } := rfl
@[simp] theorem State.setAcc_er (a : Code) : (s.setAcc a).er = s.er := rfl
@[simp] theorem State.setAcc_par (a : Code) : (s.setAcc a).par = s.par := rfl
@[simp] theorem State.setAcc_trace (a : Code) : (s.setAcc a).trace = s.trace := rfl
@[simp] theorem State.setAcc_snaps (a : Code) : (s.setAcc a).snaps = s.snaps := rfl

@[simp] theorem State.setRef_desc (t : Time) : (s.setRef t).desc = s.desc := rfl
@[simp] theorem State.setRef_enabled (t : Time) : (s.setRef t).enabled = s.enabled := rfl
@[simp] theorem State.setRef_cfgErr (t : Time) : (s.setRef t).cfgErr = s.cfgErr := rfl
@[simp] theorem State.setRef_ws (t : Time) : (s.setRef t).ws = { s.ws with ref := t } := rfl
@[simp] theorem State.setRef_er (t : Time) : (s.setRef t).er = s.er := rfl
@[simp] theorem State.setRef_par (t : Time) : (s.setRef t).par = s.par := rfl
@[simp] theorem State.setRef_trace (t : Time) : (s.setRef t).trace = s.trace := rfl
@[simp] theorem State.setRef_snaps (t : Time) : (s.setRef t).snaps = s.snaps := rfl

@[simp] theorem State.setPair_desc (p : Pair) : (s.setPair p).desc = s.desc := rfl
@[simp] theorem State.setPair_enabled (p : Pair) : (s.setPair p).enabled = s.enabled := rfl
@[simp] theorem State.setPair_cfgErr (p : Pair) : (s.setPair p).cfgErr = s.cfgErr := rfl
@[simp] theorem State.setPair_ws (p : Pair) : (s.setPair p).ws = { s.ws with pair := p } := rfl
@[simp] theorem State.setPair_er (p : Pair) : (s.setPair p).er = s.er := rfl
@[simp] theorem State.setPair_par (p : Pair) : (s.setPair p).par = s.par := rfl
@[simp] theorem State.setPair_trace (p : Pair) : (s.setPair p).trace = s.trace := rfl
@[simp] theorem State.setPair_snaps (p : Pair) : (s.setPair p).snaps = s.snaps := rfl

@[simp] theorem State.setAccBit_desc (i : Count) : (s.setAccBit i).desc = s.desc := rfl
@[simp] theorem State.setAccBit_enabled (i : Count) : (s.setAccBit i).enabled = s.enabled := rfl
@[simp] theorem State.setAccBit_cfgErr (i : Count) : (s.setAccBit i).cfgErr = s.cfgErr := rfl
@[simp] theorem State.setAccBit_ws (i : Count) : (s.setAccBit i).ws = { s.ws with acc := s.ws.acc ||| (1#32 <<< i.toNat) } := rfl
@[simp] theorem State.setAccBit_er (i : Count) : (s.setAccBit i).er = s.er := rfl
@[simp] theorem State.setAccBit_par (i : Count) : (s.setAccBit i).par = s.par := rfl
@[simp] theorem State.setAccBit_trace (i : Count) : (s.setAccBit i).trace = s.trace := rfl
@[simp] theorem State.setAccBit_snaps (i : Count) : (s.setAccBit i).snaps = s.snaps := rfl

@[simp] theorem State.clearWorking_desc : s.clearWorking.desc = s.desc := rfl
@[simp] theorem State.clearWorking_enabled : s.clearWorking.enabled = s.enabled := rfl
@[simp] theorem State.clearWorking_cfgErr : s.clearWorking.cfgErr = s.cfgErr := rfl
@[simp] theorem State.clearWorking_ws : s.clearWorking.ws = Working.zero := rfl
@[simp] theorem State.clearWorking_er : s.clearWorking.er = s.er := rfl
@[simp] theorem State.clearWorking_par : s.clearWorking.par = s.par := rfl
@[simp] theorem State.clearWorking_trace : s.clearWorking.trace = s.trace := rfl
@[simp] theorem State.clearWorking_snaps : s.clearWorking.snaps = s.snaps := rfl

@[simp] theorem State.setCode_desc (c : Code) : (s.setCode c).desc = s.desc := rfl
@[simp] theorem State.setCode_enabled (c : Code) : (s.setCode c).enabled = s.enabled := rfl
@[simp] theorem State.setCode_cfgErr (c : Code) : (s.setCode c).cfgErr = s.cfgErr := rfl
@[simp] theorem State.setCode_ws (c : Code) : (s.setCode c).ws = s.ws := rfl
@[simp] theorem State.setCode_er (c : Code) : (s.setCode c).er = { s.er with code := c } := rfl
@[simp] theorem State.setCode_par (c : Code) : (s.setCode c).par = s.par := rfl
@[simp] theorem State.setCode_trace (c : Code) : (s.setCode c).trace = s.trace := rfl
@[simp] theorem State.setCode_snaps (c : Code) : (s.setCode c).snaps = s.snaps := rfl

@[simp] theorem State.setFirstPress_desc (t : Time) : (s.setFirstPress t).desc = s.desc := rfl
@[simp] theorem State.setFirstPress_enabled (t : Time) : (s.setFirstPress t).enabled = s.enabled := rfl
@[simp] theorem State.setFirstPress_cfgErr (t : Time) : (s.setFirstPress t).cfgErr = s.cfgErr := rfl
@[simp] theorem State.setFirstPress_ws (t : Time) : (s.setFirstPress t).ws = s.ws := rfl
@[simp] theorem State.setFirstPress_er (t : Time) : (s.setFirstPress t).er = { s.er with firstPress := t } := rfl
@[simp] theorem State.setFirstPress_par (t : Time) : (s.setFirstPress t).par = s.par := rfl
@[simp] theorem State.setFirstPress_trace (t : Time) : (s.setFirstPress t).trace = s.trace := rfl
@[simp] theorem State.setFirstPress_snaps (t : Time) : (s.setFirstPress t).snaps = s.snaps := rfl

@[simp] theorem State.setPollTime_desc (t : Time) : (s.setPollTime t).desc = s.desc := rfl
@[simp] theorem State.setPollTime_enabled (t : Time) : (s.setPollTime t).enabled = s.enabled := rfl
@[simp] theorem State.setPollTime_cfgErr (t : Time) : (s.setPollTime t).cfgErr = s.cfgErr := rfl
@[simp] theorem State.setPollTime_ws (t : Time) : (s.setPollTime t).ws = s.ws := rfl
@[simp] theorem State.setPollTime_er (t : Time) : (s.setPollTime t).er = { s.er with pollTime := t } := rfl
@[simp] theorem State.setPollTime_par (t : Time) : (s.setPollTime t).par = s.par := rfl
@[simp] theorem State.setPollTime_trace (t : Time) : (s.setPollTime t).trace = s.trace := rfl
@[simp] theorem State.setPollTime_snaps (t : Time) : (s.setPollTime t).snaps = s.snaps := rfl

@[simp] theorem State.setButton_desc (b : Button) : (s.setButton b).desc = s.desc := rfl
@[simp] theorem State.setButton_enabled (b : Button) : (s.setButton b).enabled = s.enabled := rfl
@[simp] theorem State.setButton_cfgErr (b : Button) : (s.setButton b).cfgErr = s.cfgErr := rfl
@[simp] theorem State.setButton_ws (b : Button) : (s.setButton b).ws = s.ws := rfl
@[simp] theorem State.setButton_er (b : Button) : (s.setButton b).er = { s.er with state := b } := rfl
@[simp] theorem State.setButton_par (b : Button) : (s.setButton b).par = s.par := rfl
@[simp] theorem State.setButton_trace (b : Button) : (s.setButton b).trace = s.trace := rfl
@[simp] theorem State.setButton_snaps (b : Button) : (s.setButton b).snaps = s.snaps := rfl

@[simp] theorem State.setToggle_desc (b : Bool) : (s.setToggle b).desc = s.desc := rfl
@[simp] theorem State.setToggle_enabled (b : Bool) : (s.setToggle b).enabled = s.enabled := rfl
@[simp] theorem State.setToggle_cfgErr (b : Bool) : (s.setToggle b).cfgErr = s.cfgErr := rfl
@[simp] theorem State.setToggle_ws (b : Bool) : (s.setToggle b).ws = s.ws := rfl
@[simp] theorem State.setToggle_er (b : Bool) : (s.setToggle b).er = { s.er with toggle := b } := rfl
@[simp] theorem State.setToggle_par (b : Bool) : (s.setToggle b).par = s.par := rfl
@[simp] theorem State.setToggle_trace (b : Bool) : (s.setToggle b).trace = s.trace := rfl
@[simp] theorem State.setToggle_snaps (b : Bool) : (s.setToggle b).snaps = s.snaps := rfl

@[simp] theorem State.clearRecord_desc : s.clearRecord.desc = s.desc := rfl
@[simp] theorem State.clearRecord_enabled : s.clearRecord.enabled = s.enabled := rfl
@[simp] theorem State.clearRecord_cfgErr : s.clearRecord.cfgErr = s.cfgErr := rfl
@[simp] theorem State.clearRecord_ws : s.clearRecord.ws = s.ws := rfl
@[simp] theorem State.clearRecord_er : s.clearRecord.er = EventRecord.zero := rfl
@[simp] theorem State.clearRecord_par : s.clearRecord.par = s.par := rfl
@[simp] theorem State.clearRecord_trace : s.clearRecord.trace = s.trace := rfl
@[simp] theorem State.clearRecord_snaps : s.clearRecord.snaps = s.snaps := rfl

@[simp] theorem State.setTrace_desc (l : List Input) : (s.setTrace l).desc = s.desc := rfl
@[simp] theorem State.setTrace_enabled (l : List Input) : (s.setTrace l).enabled = s.enabled := rfl
@[simp] theorem State.setTrace_cfgErr (l : List Input) : (s.setTrace l).cfgErr = s.cfgErr := rfl
@[simp] theorem State.setTrace_ws (l : List Input) : (s.setTrace l).ws = s.ws := rfl
@[simp] theorem State.setTrace_er (l : List Input) : (s.setTrace l).er = s.er := rfl
@[simp] theorem State.setTrace_par (l : List Input) : (s.setTrace l).par = s.par := rfl
@[simp] theorem State.setTrace_trace (l : List Input) : (s.setTrace l).trace = l := rfl
@[simp] theorem State.setTrace_snaps (l : List Input) : (s.setTrace l).snaps = s.snaps := rfl

@[simp] theorem State.returnSnap_desc (w : SnapWord) : (s.returnSnap w).desc = s.desc := rfl
@[simp] theorem State.returnSnap_enabled (w : SnapWord) : (s.returnSnap w).enabled = s.enabled := rfl
@[simp] theorem State.returnSnap_cfgErr (w : SnapWord) : (s.returnSnap w).cfgErr = s.cfgErr := rfl
@[simp] theorem State.returnSnap_ws (w : SnapWord) : (s.returnSnap w).ws = s.ws := rfl
@[simp] theorem State.returnSnap_er (w : SnapWord) : (s.returnSnap w).er = s.er := rfl
@[simp] theorem State.returnSnap_par (w : SnapWord) : (s.returnSnap w).par = s.par := rfl
@[simp] theorem State.returnSnap_trace (w : SnapWord) : (s.returnSnap w).trace = s.trace := rfl
@[simp] theorem State.returnSnap_snaps (w : SnapWord) : (s.returnSnap w).snaps = w :: s.snaps := rfl

end Sys2Proof.Machine
end

