-- ==== Sys2Proof/Laws/Ops.lean ====
section
/-! SUPPORT. One lemma per shared operation, saying once everything it can do. -/

namespace Sys2Proof.Machine

open Sys2Proof.Safety

theorem elapsed_add_self (ref d : Time) : elapsed (ref + d) ref = d := by
  simp [elapsed, BitVec.add_comm ref d]

theorem raiseConfigError_eq (s : State) : raiseConfigError s = { s with enabled := false, cfgErr := true } := rfl

theorem beginSession_eq (c : DescWord) (s : State) :
    beginSession c s = { s with desc := Descriptor.ofWord c, ws := Working.zero, er := EventRecord.zero } := rfl

theorem hardReset_eq (s : State) :
    hardReset s = { s with desc := Descriptor.zero, enabled := false, cfgErr := false, ws := Working.zero,
                           er := EventRecord.zero } := rfl

theorem returnSnapshot_eq (s : State) : returnSnapshot s = { s with snaps := s.er.word :: s.snaps } := rfl

/-- Publication touches the Event Record only (R78). -/
theorem publish_eq (now : Time) (s : State) : publish now s = { s with er := published s.er s.ws.acc now } := by
  unfold publish published
  split <;> rfl

theorem completeFrame_eq (now : Time) (s : State) :
    completeFrame now s = { s with er := if s.ws.bitsRemaining = 0#6 then published s.er s.ws.acc now else s.er } := by
  unfold completeFrame
  split
  · exact publish_eq now s
  · rfl

theorem published_state (e : EventRecord) (c : Code) (now : Time) : (published e c now).state = e.state := by
  unfold published
  split <;> rfl

theorem published_pollTime (e : EventRecord) (c : Code) (now : Time) : (published e c now).pollTime = e.pollTime := by
  unfold published
  split <;> rfl

theorem published_of_active (e : EventRecord) (c : Code) (now : Time) (h : e.state ≠ .none) : published e c now = e := by
  simp [published, h]

theorem published_of_none (e : EventRecord) (c : Code) (now : Time) (h : e.state = .none) :
    published e c now = { e with code := c, firstPress := now, toggle := !e.toggle } := by
  simp [published, h]

theorem bitsRemaining_sub_one_toNat (n : Count) (h : n ≠ 0#6) : (n - 1#6).toNat = n.toNat - 1 := by
  have : n.toNat ≠ 0 := fun e => h (BitVec.eq_of_toNat_eq (by simpa using e))
  have := n.isLt
  rw [BitVec.toNat_sub]
  simp
  omega

/-- The bits of the accumulator after one is set (R74, R90). -/
theorem acc_or_bit (a : Code) (n i : Nat) :
    (a ||| (1#32 <<< n)).getLsbD i = (a.getLsbD i || (decide (i < 32) && decide (i = n))) := by
  by_cases hi : i < 32
  · by_cases h : i = n
    · subst h; simp [hi]
    · by_cases hl : i < n
      · simp [hi, hl, h]
      · have : i - n ≠ 0 := by omega
        simp [hi, hl, h, this]
  · simp [hi]

/-! ### Taking an input -/

/-- Taking an input changes the trace only. -/
theorem afterInput_eq (s : State) : ∃ l, afterInput s = s.setTrace l := by
  unfold afterInput
  split
  · exact ⟨s.trace, rfl⟩
  all_goals exact ⟨_, rfl⟩

@[simp] theorem afterInput_desc (s : State) : (afterInput s).desc = s.desc := by
  obtain ⟨l, h⟩ := afterInput_eq s; simp [h]

@[simp] theorem afterInput_enabled (s : State) : (afterInput s).enabled = s.enabled := by
  obtain ⟨l, h⟩ := afterInput_eq s; simp [h]

@[simp] theorem afterInput_cfgErr (s : State) : (afterInput s).cfgErr = s.cfgErr := by
  obtain ⟨l, h⟩ := afterInput_eq s; simp [h]

@[simp] theorem afterInput_ws (s : State) : (afterInput s).ws = s.ws := by
  obtain ⟨l, h⟩ := afterInput_eq s; simp [h]

@[simp] theorem afterInput_er (s : State) : (afterInput s).er = s.er := by
  obtain ⟨l, h⟩ := afterInput_eq s; simp [h]

@[simp] theorem afterInput_par (s : State) : (afterInput s).par = s.par := by
  obtain ⟨l, h⟩ := afterInput_eq s; simp [h]

@[simp] theorem afterInput_snaps (s : State) : (afterInput s).snaps = s.snaps := by
  obtain ⟨l, h⟩ := afterInput_eq s; simp [h]

end Sys2Proof.Machine
end

