-- ==== Sys2Proof/Laws/Edge.lean ====
section
/-! SUPPORT. What an edge can do, once per piece of the two algorithms. -/

namespace Sys2Proof.Machine

open Sys2Proof.Safety

/-! ### Pulse-fraction -/

theorem pfOther_eq (now : Time) (s : State) :
    pfOther now s = { s with ws := { s.ws with
      ref := if s.desc.flag = false ∨ s.par.pfRefOnIdleEdge = true then now else s.ws.ref } } := by
  unfold pfOther
  split <;> simp_all [Descriptor.distanceMode, State.setRef]

theorem pfStart_eq (e : Time) (s : State) :
    pfStart e s = { s with ws := if startAccepted s.desc e then { s.ws with bitsRemaining := s.desc.bits, acc := 0#32 }
                                 else s.ws } := by
  unfold pfStart
  split <;> rfl

theorem pfAbort_eq (e : Time) (s : State) :
    pfAbort e s = { s with ws :=
      if s.par.abortFallsIntoStart = true ∧ startAccepted s.desc e then { s.ws with bitsRemaining := s.desc.bits, acc := 0#32 }
      else { s.ws with bitsRemaining := 0#6 } } := by
  unfold pfAbort
  by_cases h : s.par.abortFallsIntoStart = true
  · simp only [h, if_true, pfStart_eq, true_and]
    by_cases g : startAccepted s.desc e
    · simp [g, State.setBitsRemaining]
    · simp [g, State.setBitsRemaining]
  · simp [h, State.setBitsRemaining]

theorem pfAssemble_eq (e : Time) (s : State) :
    pfAssemble e s = { s with ws := { s.ws with
      acc := if s.desc.b4 < e then s.ws.acc ||| (1#32 <<< s.ws.bitsRemaining.toNat) else s.ws.acc } } := by
  unfold pfAssemble
  by_cases h : s.desc.b4 < e
  · simp [h, Descriptor.bitSep, State.setAccBit, State.setAcc]
  · simp [h, Descriptor.bitSep]

/-- One accepted bit, whole (R74, R77, R78). -/
theorem pfBit_eq (e now : Time) (s : State) :
    pfBit e now s =
      { s with
        ws := { s.ws with
          bitsRemaining := s.ws.bitsRemaining - 1#6
          acc := if s.desc.b4 < e then s.ws.acc ||| (1#32 <<< (s.ws.bitsRemaining - 1#6).toNat) else s.ws.acc }
        er := if s.ws.bitsRemaining - 1#6 = 0#6 then
            published s.er (if s.desc.b4 < e then s.ws.acc ||| (1#32 <<< (s.ws.bitsRemaining - 1#6).toNat) else s.ws.acc) now
          else s.er } := by
  simp only [pfBit, completeFrame_eq, pfAssemble_eq, State.setBitsRemaining]

/-! ### Bi-phase -/

theorem bpBegin_eq (now : Time) (s : State) :
    bpBegin now s = { s with ws := { bitsRemaining := s.desc.bits, acc := 0#32, ref := now, pair := .start } } := rfl

theorem bpAssemble_eq (level : Bool) (s : State) :
    bpAssemble level s = { s with ws := { s.ws with
      acc := if level = s.desc.flag ∧ s.ws.bitsRemaining ≠ s.desc.togglePos then
          s.ws.acc ||| (1#32 <<< s.ws.bitsRemaining.toNat) else s.ws.acc } } := by
  unfold bpAssemble
  by_cases h : level = s.desc.flag ∧ s.ws.bitsRemaining ≠ s.desc.togglePos
  · rw [if_pos (by exact h), if_pos h]; rfl
  · rw [if_neg (by exact h), if_neg h]

/-- One mid-bit transition, whole (R90 to R92). -/
theorem bpMidbit_eq (level : Bool) (now : Time) (s : State) :
    bpMidbit level now s =
      { s with
        ws := { bitsRemaining := s.ws.bitsRemaining - 1#6
                ref := now
                acc := if level = s.desc.flag ∧ s.ws.bitsRemaining - 1#6 ≠ s.desc.togglePos then
                    s.ws.acc ||| (1#32 <<< (s.ws.bitsRemaining - 1#6).toNat) else s.ws.acc
                pair := if s.ws.bitsRemaining - 1#6 = 0#6 then s.ws.pair else s.desc.nextPair (s.ws.bitsRemaining - 1#6) }
        er := if s.ws.bitsRemaining - 1#6 = 0#6 then
            published s.er (if level = s.desc.flag ∧ s.ws.bitsRemaining - 1#6 ≠ s.desc.togglePos then
              s.ws.acc ||| (1#32 <<< (s.ws.bitsRemaining - 1#6).toNat) else s.ws.acc) now
          else s.er } := by
  simp only [bpMidbit, bpAdvance, bpAssemble_eq, State.setBitsRemaining, State.setRef]
  by_cases h : s.ws.bitsRemaining - 1#6 = 0#6
  · rw [if_pos h, publish_eq, if_pos h, if_pos h]
  · rw [if_neg h, if_neg h, if_neg h]; rfl

theorem bpAbort_eq (level : Bool) (now : Time) (s : State) :
    bpAbort level now s = { s with ws :=
      if s.par.abortFallsIntoStart = true ∧ level = true then
        { bitsRemaining := s.desc.bits, acc := 0#32, ref := now, pair := .start }
      else { s.ws with bitsRemaining := 0#6 } } := by
  unfold bpAbort
  split <;> rfl

theorem nextPair_ne_unused (d : Descriptor) (r : Count) : d.nextPair r ≠ .unused := by
  unfold Descriptor.nextPair
  split <;> simp

/-! ### Either algorithm -/

/-- Every edge of a pulse-fraction descriptor is one of four things (R72, R76, R74, R75). -/
theorem edgePF_cases (level : Bool) (now : Time) (s : State) :
    (level ≠ s.desc.flag ∧ edgePF level now s = pfOther now s) ∨
    (level = s.desc.flag ∧ s.ws.bitsRemaining = 0#6 ∧
      edgePF level now s = pfStart (elapsed now s.ws.ref) (s.setRef now)) ∨
    (level = s.desc.flag ∧ s.ws.bitsRemaining ≠ 0#6 ∧ inBitWindow s.desc (elapsed now s.ws.ref) ∧
      edgePF level now s = pfBit (elapsed now s.ws.ref) now (s.setRef now)) ∨
    (level = s.desc.flag ∧ s.ws.bitsRemaining ≠ 0#6 ∧ ¬ inBitWindow s.desc (elapsed now s.ws.ref) ∧
      edgePF level now s = pfAbort (elapsed now s.ws.ref) (s.setRef now)) := by
  unfold edgePF pfMeasured Descriptor.distanceMode
  by_cases hl : level = s.desc.flag
  · rw [if_pos hl]
    by_cases hb : s.ws.bitsRemaining = 0#6
    · exact .inr (.inl ⟨hl, hb, if_pos hb⟩)
    · by_cases hw : inBitWindow s.desc (elapsed now s.ws.ref)
      · exact .inr (.inr (.inl ⟨hl, hb, hw, (if_neg hb).trans (if_pos hw)⟩))
      · exact .inr (.inr (.inr ⟨hl, hb, hw, (if_neg hb).trans (if_neg hw)⟩))
  · exact .inl ⟨hl, if_neg hl⟩

/-- Every edge of a bi-phase descriptor is one of five things (R85, R87, R89). -/
theorem edgeBP_cases (level : Bool) (now : Time) (s : State) :
    (s.ws.bitsRemaining = 0#6 ∧ level = false ∧ edgeBP level now s = s) ∨
    (s.ws.bitsRemaining = 0#6 ∧ level = true ∧ edgeBP level now s = bpBegin now s) ∨
    (s.ws.bitsRemaining ≠ 0#6 ∧ elapsed now s.ws.ref < s.desc.hi s.ws.pair ∧
      s.desc.lo s.ws.pair < elapsed now s.ws.ref ∧ edgeBP level now s = bpMidbit level now s) ∨
    (s.ws.bitsRemaining ≠ 0#6 ∧ elapsed now s.ws.ref < s.desc.hi s.ws.pair ∧
      ¬ s.desc.lo s.ws.pair < elapsed now s.ws.ref ∧ edgeBP level now s = s) ∨
    (s.ws.bitsRemaining ≠ 0#6 ∧ ¬ elapsed now s.ws.ref < s.desc.hi s.ws.pair ∧
      edgeBP level now s = bpAbort level now s) := by
  unfold edgeBP bpInFrame
  by_cases hb : s.ws.bitsRemaining = 0#6
  · cases level <;> simp [hb]
  · by_cases hh : elapsed now s.ws.ref < s.desc.hi s.ws.pair
    · by_cases hl : s.desc.lo s.ws.pair < elapsed now s.ws.ref
      · simp [hb, hh, hl]
      · simp [hb, hh, hl]
    · simp [hb, hh]

theorem edge_disabled (level : Bool) (now : Time) (s : State) (h : s.enabled = false) : edge level now s = s := by
  simp [edge, h]

theorem edge_pf (level : Bool) (now : Time) (s : State) (h : s.enabled = true) (k : s.desc.kind = .pf) :
    edge level now s = edgePF level now s := by
  simp [edge, h, k]

theorem edge_bp (level : Bool) (now : Time) (s : State) (h : s.enabled = true) (k : s.desc.kind = .bp) :
    edge level now s = edgeBP level now s := by
  simp [edge, h, k]

end Sys2Proof.Machine
end

