-- ==== Sys2Proof/Laws/Operands.lean ====
section
/-! SUPPORT. Reading a bit of a word built from fields: below the last field it is a bit of that field, above it a bit of
the fields before. -/

namespace Sys2Proof.Machine

theorem getLsbD_append_low {n m : Nat} (x : BitVec n) (y : BitVec m) (k : Nat) (h : k < m) :
    (x ++ y).getLsbD k = y.getLsbD k := by
  rw [BitVec.getLsbD_append, if_pos h]

theorem getLsbD_append_high {n m : Nat} (x : BitVec n) (y : BitVec m) (k : Nat) :
    (x ++ y).getLsbD (m + k) = x.getLsbD k := by
  rw [BitVec.getLsbD_append, if_neg (by omega), Nat.add_sub_cancel_left]

theorem extractLsb'_eq_of_bits {n k : Nat} (c : BitVec n) (off : Nat) (x : BitVec k)
    (h : ∀ i, i < k → c.getLsbD (off + i) = x.getLsbD i) : c.extractLsb' off k = x := by
  apply BitVec.eq_of_getLsbD_eq
  intro i hi
  rw [BitVec.getLsbD_extractLsb', h i hi]
  simp [hi]

end Sys2Proof.Machine
end

