-- ==== Sys2Proof/Laws/PerInstr.lean ====
section
/-! SUPPORT. Statements about every operation as syntax, one lemma per constructor. -/

namespace Sys2Proof.Laws.MatchesRow

/-- The canonical word of an operation belongs to its own row of the opcode table, and that row is in the table. -/
def Statement (i : Instr) : Prop := (rowOf i).hits (encode i).1 = true ∧ rowOf i ∈ opcodeTable

theorem nop : Statement .nop := ⟨by decide, by decide⟩

theorem edge (level : Bool) (ts : Time) : Statement (.edge level ts) := by
  refine ⟨?_, by simp only [rowOf]; decide⟩
  have mask : (0xE00000000#36) = eventWord 3#2 true false 0#32 := by decide
  have pattern : (0x400000000#36) = eventWord 1#2 false false 0#32 := by decide
  simp [Row.hits, rowOf, encode, mask, pattern, eventWord_and]

theorem poll (ts : Time) : Statement (.poll ts) := by
  refine ⟨?_, by simp only [rowOf]; decide⟩
  have mask : (0xF00000000#36) = eventWord 3#2 true true 0#32 := by decide
  have pattern : (0x800000000#36) = eventWord 2#2 false false 0#32 := by decide
  simp [Row.hits, rowOf, encode, mask, pattern, eventWord_and]

theorem config (c : DescWord) : Statement (.config c) := ⟨by simp only [encode, rowOf]; decide, by simp only [rowOf]; decide⟩

end Sys2Proof.Laws.MatchesRow

namespace Sys2Proof.Laws

/-- The rows of the opcode table do not overlap: two rows differ in a bit both of them fix. -/
theorem opcodeTable_disjoint :
    opcodeTable.Pairwise (fun r r' => r.pattern &&& (r.mask &&& r'.mask) ≠ r'.pattern &&& (r.mask &&& r'.mask)) := by
  decide

end Sys2Proof.Laws
end

