-- ==== Sys2Proof/Laws/Poll.lean ====
section
/-! SUPPORT. What a poll does, once per button state (43 R107, V-E13). -/

namespace Sys2Proof.Machine

theorem poll_disabled (now : Time) (s : State) (h : s.enabled = false) : poll now s = returnSnapshot s := by
  simp [poll, pollRecord, h]

theorem pollRecord_none (now : Time) (s : State) (h : s.enabled = true) (b : s.er.state = .none) :
    pollRecord now s = { s with er := { s.er with
      pollTime := now, state := if s.er.code ≠ 0#32 then .pressed else .none } } := by
  simp only [pollRecord, pollTransition, fromNone, h, b, State.setPollTime]
  by_cases hc : s.er.code = 0#32
  · simp [hc]
  · simp [hc, State.setButton]

theorem pollRecord_pressed (now : Time) (s : State) (h : s.enabled = true) (b : s.er.state = .pressed) :
    pollRecord now s = { s with er := { s.er with
      pollTime := now, state := if s.par.repeatIntervalUs < now - s.ws.ref then .released else .held } } := by
  simp only [pollRecord, pollTransition, fromPressed, fromHeld, silent, elapsed, h, b, State.setPollTime, State.setButton]
  by_cases hc : s.par.repeatIntervalUs < now - s.ws.ref <;> simp [hc]

theorem pollRecord_held (now : Time) (s : State) (h : s.enabled = true) (b : s.er.state = .held) :
    pollRecord now s = { s with er := { s.er with
      pollTime := now, state := if s.par.repeatIntervalUs < now - s.ws.ref then .released else .held } } := by
  simp only [pollRecord, pollTransition, fromHeld, silent, elapsed, h, b, State.setPollTime, State.setButton]
  by_cases hc : s.par.repeatIntervalUs < now - s.ws.ref
  · simp [hc]
  · simp [hc]

theorem pollRecord_released (now : Time) (s : State) (h : s.enabled = true) (b : s.er.state = .released) :
    pollRecord now s = { s with er := { s.er with pollTime := now, state := .none, code := 0#32 } } := by
  simp [pollRecord, pollTransition, fromReleased, fromNone, h, b, State.setPollTime, State.setButton, State.setCode]

end Sys2Proof.Machine
end

