-- ==== Sys2Proof/Laws/Exec.lean ====
section
/-! SUPPORT. What an edge, a poll and a CONFIG leave alone, once each, and what a decoded CONFIG is. -/

namespace Sys2Proof.Machine

/-- An edge, whatever it does, writes `ws` and the publication fields of `er` only, and those not while an event is
active (R22, R25, R78). -/
theorem edge_writes (level : Bool) (now : Time) (s : State) :
    ∃ w e, edge level now s = { s with ws := w, er := e } ∧ e.state = s.er.state ∧ e.pollTime = s.er.pollTime ∧
      (s.er.state ≠ .none → e = s.er) ∧ (s.desc.kind = .pf → w.pair = s.ws.pair) := by
  by_cases he : s.enabled = true
  swap
  · exact ⟨s.ws, s.er, edge_disabled _ _ _ (by simpa using he), rfl, rfl, fun _ => rfl, fun _ => rfl⟩
  cases hk : s.desc.kind
  · rw [edge_pf level now s he hk]
    obtain ⟨-, h⟩ | ⟨-, -, h⟩ | ⟨-, -, -, h⟩ | ⟨-, -, -, h⟩ := edgePF_cases level now s <;> rw [h]
    · exact ⟨_, s.er, pfOther_eq now s, rfl, rfl, fun _ => rfl, fun _ => rfl⟩
    · exact ⟨_, s.er, pfStart_eq _ _, rfl, rfl, fun _ => rfl, fun _ => by split <;> rfl⟩
    · refine ⟨_, _, pfBit_eq _ now _, ?_, ?_, fun ha => ?_, fun _ => rfl⟩ <;> split
      all_goals first | rfl | exact published_state .. | exact published_pollTime .. | exact published_of_active _ _ _ ha
    · exact ⟨_, s.er, pfAbort_eq _ _, rfl, rfl, fun _ => rfl, fun _ => by split <;> rfl⟩
  · rw [edge_bp level now s he hk]
    obtain ⟨-, -, h⟩ | ⟨-, -, h⟩ | ⟨-, -, -, h⟩ | ⟨-, -, -, h⟩ | ⟨-, -, h⟩ := edgeBP_cases level now s <;> rw [h]
    · exact ⟨s.ws, s.er, rfl, rfl, rfl, fun _ => rfl, nofun⟩
    · exact ⟨_, s.er, bpBegin_eq now s, rfl, rfl, fun _ => rfl, nofun⟩
    · refine ⟨_, _, bpMidbit_eq level now s, ?_, ?_, fun ha => ?_, nofun⟩ <;> split
      all_goals first | rfl | exact published_state .. | exact published_pollTime .. | exact published_of_active _ _ _ ha
    · exact ⟨s.ws, s.er, rfl, rfl, rfl, fun _ => rfl, nofun⟩
    · exact ⟨_, s.er, bpAbort_eq level now s, rfl, rfl, fun _ => rfl, nofun⟩

/-- A poll writes the Event Record only, and of it neither the first-press time nor the toggle; the code only from
RELEASED, and then to 0. -/
theorem pollRecord_writes (now : Time) (s : State) :
    ∃ e, pollRecord now s = { s with er := e } ∧ e.firstPress = s.er.firstPress ∧ e.toggle = s.er.toggle ∧
      (e.code ≠ s.er.code → s.er.state = .released ∧ e.code = 0#32) := by
  by_cases he : s.enabled = true
  · cases hb : s.er.state
    · rw [pollRecord_none now s he hb]; exact ⟨_, rfl, by simp⟩
    · rw [pollRecord_pressed now s he hb]; exact ⟨_, rfl, by simp⟩
    · rw [pollRecord_held now s he hb]; exact ⟨_, rfl, by simp⟩
    · rw [pollRecord_released now s he hb]; exact ⟨_, rfl, by simp⟩
  · exact ⟨s.er, if_pos (by simpa using he), by simp⟩

/-- CONFIG, whole. -/
theorem configure_eq (c : DescWord) (s : State) :
    configure c s = { s with desc := Descriptor.ofWord c, ws := Working.zero, er := EventRecord.zero,
                             enabled := valid s.par c, cfgErr := !valid s.par c } := by
  unfold configure
  by_cases h : valid s.par c = true
  · rw [if_pos h, h]; rfl
  · have h' : valid s.par c = false := by simpa using h
    rw [if_neg h, h']; rfl

/-- A decoded CONFIG carries the descriptor word that was held on `cfg`. -/
theorem decode_config (w : EventWord) (cfg c : DescWord) (h : decode w cfg = .ok (.config c)) : c = cfg := by
  unfold decode at h
  split_ifs at h <;> first | cases h; rfl | cases h

end Sys2Proof.Machine
end

