-- ==== Sys2Proof/Tests/Slice0.lean ====
section
/-! SUPPORT. The model's own tests: smoke tests of WellFormed, words and vectors taken from spec/95_test_vectors, and for
every obligation with hypotheses a state and operands that meet them. -/

namespace Sys2Proof.Tests

open Sys2Proof.Machine Sys2Proof.Safety

/-! ### WellFormed refuses an ill-formed line for each of its checks -/

theorem test_wf_edge_level : (TraceLine.edge 2 800).wellFormed = false := by decide
theorem test_wf_edge_time : (TraceLine.edge 1 4294967296).wellFormed = false := by decide
theorem test_wf_poll_time : (TraceLine.poll 4294967296).wellFormed = false := by decide
theorem test_wf_pf_bits : (TraceLine.configPF 64 1 0 0 400 1200 700).wellFormed = false := by decide
theorem test_wf_pf_mode : (TraceLine.configPF 4 2 0 0 400 1200 700).wellFormed = false := by decide
theorem test_wf_pf_startMin : (TraceLine.configPF 4 1 4294967296 0 400 1200 700).wellFormed = false := by decide
theorem test_wf_pf_startMax : (TraceLine.configPF 4 1 0 4294967296 400 1200 700).wellFormed = false := by decide
theorem test_wf_pf_bitMin : (TraceLine.configPF 4 1 0 0 4294967296 1200 700).wellFormed = false := by decide
theorem test_wf_pf_bitMax : (TraceLine.configPF 4 1 0 0 400 4294967296 700).wellFormed = false := by decide
theorem test_wf_pf_sep : (TraceLine.configPF 4 1 0 0 400 1200 4294967296).wellFormed = false := by decide
theorem test_wf_bp_bits : (TraceLine.configBP 64 1 1 2 1 2 1 2 0).wellFormed = false := by decide
theorem test_wf_bp_polarity : (TraceLine.configBP 5 2 1 2 1 2 1 2 0).wellFormed = false := by decide
theorem test_wf_bp_startMin : (TraceLine.configBP 5 1 4294967296 2 1 2 1 2 0).wellFormed = false := by decide
theorem test_wf_bp_startMax : (TraceLine.configBP 5 1 1 4294967296 1 2 1 2 0).wellFormed = false := by decide
theorem test_wf_bp_bitMin : (TraceLine.configBP 5 1 1 2 4294967296 2 1 2 0).wellFormed = false := by decide
theorem test_wf_bp_bitMax : (TraceLine.configBP 5 1 1 2 1 4294967296 1 2 0).wellFormed = false := by decide
theorem test_wf_bp_togMin : (TraceLine.configBP 5 1 1 2 1 2 4294967296 2 0).wellFormed = false := by decide
theorem test_wf_bp_togMax : (TraceLine.configBP 5 1 1 2 1 2 1 4294967296 0).wellFormed = false := by decide
theorem test_wf_bp_togglePos : (TraceLine.configBP 5 1 1 2 1 2 1 2 64).wellFormed = false := by decide
theorem test_wf_raw : (TraceLine.configRaw (2 ^ 208)).wellFormed = false := by decide
theorem test_wf_rise : (TraceLine.rise 4294967296).wellFormed = false := by decide
theorem test_wf_fall : (TraceLine.fall 4294967296).wellFormed = false := by decide
theorem test_wf_intervals_level : (TraceLine.intervals 2 0 [800]).wellFormed = false := by decide
theorem test_wf_intervals_time : (TraceLine.intervals 1 4294967296 [800]).wellFormed = false := by decide
theorem test_wf_polls : (TraceLine.polls 4294967296 1 1).wellFormed = false := by decide

/-! ### Words of 95_test_vectors 2.1, by the decoder -/

theorem test_decode_nop : decode 0x3FFFFFFFF#36 0 = .ok .nop := by decide
theorem test_decode_edge : decode 0x400000258#36 0 = .ok (.edge false 600) := by decide
theorem test_decode_poll : decode 0x8000186A0#36 0 = .ok (.poll 100000) := by decide
theorem test_decode_config : decode 0xC00000000#36 5 = .ok (.config 5) := by decide
theorem test_decode_illegal :
    decode 0x700000000#36 0 = .error .edgeReservedBit ∧ decode 0x9000186A0#36 0 = .error .pollReservedBits ∧
    decode 0xB00000000#36 0 = .error .pollReservedBits ∧ decode 0xD00000000#36 0 = .error .configOperandBits := by decide

theorem test_table_word : decodeTableWord 40 0x500000320 = some (.edge true 800) := by decide
theorem test_table_word_padding : decodeTableWord 40 0x1500000320 = none := by decide

/-! ### Small states -/

/-- The descriptor words of 95_test_vectors. -/
def pf4 : DescWord := 0x4400000000000000000000000190000004B0000002BC00000000#208
def pf4S : DescWord := 0x4400000007D000000BB800000190000004B0000002BC00000000#208
def pfW : DescWord := 0x0400000007D000000BB80000012C000005DC0000038400000000#208
def bp5 : DescWord := 0xC502000005DC000009C4000005DC000009C4000009C400000DAC#208
def bp5N : DescWord := 0x8502000005DC000009C4000005DC000009C4000009C400000DAC#208
def bp5T0 : DescWord := 0xC500000005DC000009C4000005DC000009C4000009C400000DAC#208

/-- A state with the block enabled under a descriptor, the parameters of 95_test_vectors in force. -/
def enabledWith (c : DescWord) (w : Working) (e : EventRecord) : State :=
  { State.reset with desc := Descriptor.ofWord c, enabled := true, ws := w, er := e, par := Config.defaults 100000 }

/-- The working state `br / acc / ref / pair` of 95_test_vectors. -/
def ws (br : Count) (acc : Code) (ref : Time) (pair : Pair) : Working :=
  { bitsRemaining := br, acc := acc, ref := ref, pair := pair }

/-- The record `(STATE, toggle, code, firstPress, pollTime)` of 95_test_vectors. -/
def rec (state : Button) (toggle : Bool) (code : Code) (firstPress pollTime : Time) : EventRecord :=
  { code := code, firstPress := firstPress, pollTime := pollTime, state := state, toggle := toggle }

/-- The same state under `ABORT_FALLS_INTO_START`. -/
def restarting (s : State) : State := { s with par := { s.par with abortFallsIntoStart := true } }

/-! ### Descriptor and snapshot words (95_test_vectors 2.2, 2.3) -/

theorem test_valid_rows : valid (Config.defaults 0) pf4 = true ∧ valid (Config.defaults 0) bp5 = true ∧
    valid (Config.defaults 0) 0x6100000000000000000000000190000004B0000002BC00000000#208 = false ∧
    valid (Config.defaults 0) 0x4440000000000000000000000190000004B0000002BC00000000#208 = false ∧
    valid (Config.defaults 0) 0xC502000005DC000009C4000005DC000009C400000DAC000009C4#208 = false := by decide

theorem test_valid_bp_refused : valid { Config.defaults 0 with bpRefused := [bp5] } bp5 = false := by decide

theorem test_snapshot_word : (rec .released true 9 3700 152901).word = 0x70000000900000E7400025545#99 := by decide

/-! ### One step each: CONFIG (P5), EDGE (V-PF1, V-BP1), POLL (V-E1) -/

theorem test_config_valid : (configure pf4 State.reset).cfgErr = false ∧ (configure pf4 State.reset).desc.bits = 4 :=
  ⟨rfl, rfl⟩

theorem test_config_invalid :
    (configure 0x44000000000000000000000004B000000190000002BC00000000#208 State.reset).cfgErr = true := rfl

theorem test_edge_completes : (edge true 3700 (enabledWith pf4 (ws 1 8 2700 .ord) EventRecord.zero)).ws = ws 0 9 3700 .ord ∧
    (edge true 3700 (enabledWith pf4 (ws 1 8 2700 .ord) EventRecord.zero)).er = rec .none true 9 3700 0 := by decide

theorem test_edge_midbit :
    (edge true 15000 (enabledWith bp5 (ws 4 0 13000 .ord) EventRecord.zero)).ws = ws 3 8 15000 .toggle := by decide

theorem test_edge_abort_restarts :
    (edge true 1900 (restarting (enabledWith pf4 (ws 3 8 1600 .ord) EventRecord.zero))).ws = ws 4 0 1900 .ord := by decide

theorem test_poll_held : (poll 103700 (enabledWith pf4 (ws 0 9 3700 .ord) (rec .pressed true 9 3700 5000))).snaps =
    [0x50000000900000E7400019514#99] := by decide

theorem test_poll_released : (poll 103701 (enabledWith pf4 (ws 0 9 3700 .ord) (rec .held true 9 3700 103700))).snaps =
    [0x70000000900000E7400019515#99] := by decide

/-! ### A line of text (R55) and its words (95_test_vectors 2.2) -/

theorem test_parse_lines : parseTrace ['N', 'O', 'P', ' ', '#', 'x', '\n', '\n', 'F', 'A', 'L', 'L', ' ', '@', '0', 'x', '1', 'F'] =
    some [.nop, .fall 31] := by decide

theorem test_parse_config : configLine (wordsOf ['B', 'P', ' ', 'b', 'i', 't', 's', '=', '5']) = none := by decide

theorem test_line_words : lineInputs (.configBP 5 1 1500 2500 1500 2500 2500 3500 2) = [.op 0xC00000000#36 bp5] := by decide

/-! ### A state for every statement with hypotheses -/

theorem witness_OnlyNopHasSeveralWords : decode 0xC00000000#36 5 = .ok (.config 5) ∧ Instr.config 5 ≠ .nop := by decide

theorem witness_TopDigitSelectsOperation :
    ((0x3FFFFFFFF#36).extractLsb' 32 4).toNat ≤ 3 ∧ ((0x400000000#36).extractLsb' 32 4).toNat = 4 ∧
    ((0x5FFFFFFFF#36).extractLsb' 32 4).toNat = 5 ∧ ((0x600000000#36).extractLsb' 32 4).toNat = 6 ∧
    ((0x7FFFFFFFF#36).extractLsb' 32 4).toNat = 7 ∧ ((0x800000000#36).extractLsb' 32 4).toNat = 8 ∧
    ((0x900000000#36).extractLsb' 32 4).toNat = 9 ∧ ((0xBFFFFFFFF#36).extractLsb' 32 4).toNat = 11 ∧
    (((0xC00000000#36).extractLsb' 32 4).toNat = 12 ∧ (0xC00000000#36).extractLsb' 0 32 = 0#32) ∧
    (((0xC00000001#36).extractLsb' 32 4).toNat = 12 ∧ (0xC00000001#36).extractLsb' 0 32 ≠ 0#32) ∧
    13 ≤ ((0xD00000000#36).extractLsb' 32 4).toNat ∧ 13 ≤ ((0xFFFFFFFFF#36).extractLsb' 32 4).toNat := by decide

theorem witness_IntervalsLineExpandsToRunningSums : 6 < [800, 800, 300, 800, 900, 500, 1600].length := by decide

theorem witness_PollsLineExpandsToEqualSteps : 0 < 1 := by decide

theorem witness_TableWordIsRunByTheNextStep : decodeTableWord 40 0xC00000000 = some (.config 0) := by decide

theorem witness_StepRunsDecodedOperation :
    (State.reset.withFetchWord 40 0x8000003E8).trace = .op 0x8000003E8#36 0 :: [] ∧
    decode 0x8000003E8#36 0 = .ok (.poll 1000) := by decide

theorem witness_StepPassesOverIllegalWord :
    (State.reset.withFetchWord 40 0x600000000).trace = .op 0x600000000#36 0 :: [] ∧
    decode 0x600000000#36 0 = .error .edgeReservedBit := by decide

theorem witness_StepWaitsWithoutInput : State.reset.trace = [] := rfl

theorem witness_ResetInputZeroesEveryRegister :
    ((enabledWith pf4 (ws 3 8 1600 .ord) (rec .held true 9 3700 5000)).setTrace [.reset]).trace = .reset :: [] := rfl

theorem witness_SimultaneousEdgeGoesBeforePoll :
    ((enabledWith pf4 (ws 0 0 0 .ord) EventRecord.zero).setTrace [.edgeWithPoll true 800 900]).trace =
      .edgeWithPoll true 800 900 :: [] := rfl

/-- An invalid CONFIG enters the condition; a valid one, and reset, leave it (P5 lines 4 and 9). -/
theorem witness_ConfigErrorOnlyByInvalidConfig :
    valid State.reset.par 0 = false ∧
    (∃ t, step (State.reset.setTrace [.op 0xC00000000#36 0]) = .next t ∧ t.cfgErr = true) ∧
    (∃ t, step ((configure 0 State.reset).setTrace [.op 0xC00000000#36 pf4]) = .next t ∧ t.cfgErr = false ∧
      (configure 0 State.reset).cfgErr = true) ∧
    (∃ t, step ((configure 0 State.reset).setTrace [.reset]) = .next t ∧ t.cfgErr = false) :=
  ⟨rfl, ⟨_, rfl, rfl⟩, ⟨_, rfl, rfl, rfl⟩, ⟨_, rfl, rfl⟩⟩

theorem machineInv_reset : MachineInv State.reset :=
  ⟨by simp [State.reset], fun _ => ⟨rfl, rfl⟩, by simp [State.reset]⟩

theorem witness_DisabledBlockIgnoresEdgeAndPoll : State.reset.enabled = false ∧ MachineInv State.reset :=
  ⟨rfl, machineInv_reset⟩

/-- An enabled block under a pulse-fraction descriptor meets a measuring edge. -/
abbrev Measuring (s : State) (level : Bool) : Prop := s.enabled = true ∧ s.desc.kind = .pf ∧ level = s.desc.flag

/-- An enabled block inside a bi-phase frame. -/
abbrev InBpFrame (s : State) : Prop := s.enabled = true ∧ s.desc.kind = .bp ∧ s.ws.bitsRemaining ≠ 0#6

/-- In distance mode (S1c) and in width mode (P4 line 1). -/
theorem witness_PfNonMeasuringEdge :
    (∃ (s : State) (level : Bool), s.enabled = true ∧ s.desc.kind = .pf ∧ level ≠ s.desc.flag ∧ s.desc.flag = true) ∧
    (∃ (s : State) (level : Bool), s.enabled = true ∧ s.desc.kind = .pf ∧ level ≠ s.desc.flag ∧ s.desc.flag = false) :=
  ⟨⟨enabledWith pf4 (ws 0 0 0 .ord) EventRecord.zero, false, by decide⟩,
   ⟨enabledWith pfW (ws 0 0 0 .ord) EventRecord.zero, true, by decide⟩⟩

theorem witness_PfMeasuringEdgeWritesReference : ∃ (s : State) (level : Bool), Measuring s level :=
  ⟨enabledWith pf4 (ws 0 0 0 .ord) EventRecord.zero, true, by decide⟩

/-- V-PF3 and V-PF5, the two ends of the window, in a first bit; V-PF1 line 5, the last bit. -/
theorem witness_PfBitIsAssembledAndPublished :
    (∃ (s : State) (level : Bool), Measuring s level ∧ s.ws.bitsRemaining = 4#6 ∧
      (s.desc.bitMin < 1201 - s.ws.ref ∧ 1201 - s.ws.ref < s.desc.bitMax) ∧
      (s.desc.bitMin < 1999 - s.ws.ref ∧ 1999 - s.ws.ref < s.desc.bitMax)) ∧
    (∃ (s : State) (level : Bool), Measuring s level ∧ s.ws.bitsRemaining = 1#6 ∧ s.er.state = .none ∧
      s.desc.bitMin < 3700 - s.ws.ref ∧ 3700 - s.ws.ref < s.desc.bitMax) :=
  ⟨⟨enabledWith pf4 (ws 4 0 800 .ord) EventRecord.zero, true, by decide⟩,
   ⟨enabledWith pf4 (ws 1 8 2700 .ord) EventRecord.zero, true, by decide⟩⟩

/-- V-PF2 and V-PF4: both ends of the window abort; S1b: under the parameter the abort begins a frame. -/
theorem witness_PfAbortDropsFrame :
    (∃ (s : State) (level : Bool), Measuring s level ∧ s.ws.bitsRemaining ≠ 0#6 ∧
      ¬(s.desc.bitMin < 1200 - s.ws.ref ∧ 1200 - s.ws.ref < s.desc.bitMax) ∧
      ¬(s.desc.bitMin < 2000 - s.ws.ref ∧ 2000 - s.ws.ref < s.desc.bitMax)) ∧
    (∃ (s : State) (level : Bool), Measuring s level ∧ s.ws.bitsRemaining ≠ 0#6 ∧
      ¬(s.desc.bitMin < 1900 - s.ws.ref ∧ 1900 - s.ws.ref < s.desc.bitMax) ∧
      s.par.abortFallsIntoStart = true ∧ s.desc.startMax = 0#32) :=
  ⟨⟨enabledWith pf4 (ws 4 0 800 .ord) EventRecord.zero, true, by decide⟩,
   ⟨restarting (enabledWith pf4 (ws 3 8 1600 .ord) EventRecord.zero), true, by decide⟩⟩

/-- V-PF10: the start window, its ends and its inside. -/
theorem witness_PfStartTestBeginsFrame :
    ∃ (s : State) (level : Bool), Measuring s level ∧ s.ws.bitsRemaining = 0#6 ∧
      ¬ startAccepted s.desc (52000 - s.ws.ref) ∧ startAccepted s.desc (52001 - s.ws.ref) ∧
      ¬ startAccepted s.desc (53000 - s.ws.ref) :=
  ⟨enabledWith pf4S (ws 0 0 50000 .ord) EventRecord.zero, true, by decide⟩

theorem witness_ActiveEventSuppressesPublication : ∃ s : State, s.er.state ≠ .none :=
  ⟨enabledWith pf4 (ws 1 8 51900 .ord) (rec .held true 9 3700 25000), by decide⟩

/-- V-PF13 line 4, with nothing published before; V-BP14, the last edge; V-BP12, its last edge with no bit set before. -/
theorem witness_AllZeroCodeIsNeverReported :
    (∃ (s : State) (level : Bool) (now : Time), s.enabled = true ∧ s.ws.bitsRemaining = 1#6 ∧ s.ws.acc = 0#32 ∧
      s.er.state = .none ∧ s.desc.kind = .pf ∧ completesWithZeroBit s level now) ∧
    (∃ (s : State) (level : Bool) (now : Time), s.enabled = true ∧ s.ws.bitsRemaining = 1#6 ∧ s.ws.acc = 0#32 ∧
      s.er.state = .none ∧ s.desc.kind = .bp ∧ level ≠ s.desc.flag ∧ completesWithZeroBit s level now) ∧
    (∃ (s : State) (level : Bool) (now : Time), s.enabled = true ∧ s.ws.bitsRemaining = 1#6 ∧ s.ws.acc = 0#32 ∧
      s.er.state = .none ∧ s.desc.kind = .bp ∧ level = s.desc.flag ∧ completesWithZeroBit s level now) :=
  ⟨⟨enabledWith pf4 (ws 1 0 2500 .ord) EventRecord.zero, true, 3000, by decide⟩,
   ⟨enabledWith bp5N (ws 1 0 21000 .ord) EventRecord.zero, true, 23000, by decide⟩,
   ⟨enabledWith bp5T0 (ws 1 0 19000 .toggle) EventRecord.zero, true, 22000, by decide⟩⟩

/-- For BpIdleFallingEdgeIsIgnored and BpIdleRisingEdgeBeginsFrame. -/
theorem witness_BpIdle : ∃ s : State, s.enabled = true ∧ s.desc.kind = .bp ∧ s.ws.bitsRemaining = 0#6 :=
  ⟨enabledWith bp5 (ws 0 0 0 .ord) EventRecord.zero, by decide⟩

/-- V-BP4 and V-BP5, the two ends of the pair, in a first bit; V-BP1 line 9, the last bit. -/
theorem witness_BpMidbitIsAssembledAndPublished :
    (∃ s : State, InBpFrame s ∧ s.desc.lo s.ws.pair < 12501 - s.ws.ref ∧ 12501 - s.ws.ref < s.desc.hi s.ws.pair ∧
      s.desc.lo s.ws.pair < 13499 - s.ws.ref ∧ 13499 - s.ws.ref < s.desc.hi s.ws.pair) ∧
    (∃ s : State, InBpFrame s ∧ s.ws.bitsRemaining = 1#6 ∧ s.er.state = .none ∧
      s.desc.lo s.ws.pair < 23000 - s.ws.ref ∧ 23000 - s.ws.ref < s.desc.hi s.ws.pair) :=
  ⟨⟨enabledWith bp5 (ws 5 0 11000 .start) EventRecord.zero, by decide⟩,
   ⟨enabledWith bp5 (ws 1 10 21000 .ord) EventRecord.zero, by decide⟩⟩

/-- V-BP6: the upper bound itself is too late; V-BP8 under the parameter. -/
theorem witness_BpLateEdgeAbortsFrame :
    (∃ s : State, InBpFrame s ∧ ¬ 13500 - s.ws.ref < s.desc.hi s.ws.pair ∧ s.par.abortFallsIntoStart = false) ∧
    (∃ s : State, InBpFrame s ∧ ¬ 14000 - s.ws.ref < s.desc.hi s.ws.pair ∧ s.par.abortFallsIntoStart = true) :=
  ⟨⟨enabledWith bp5 (ws 5 0 11000 .start) EventRecord.zero, by decide⟩,
   ⟨restarting (enabledWith bp5 (ws 5 0 11000 .start) EventRecord.zero), by decide⟩⟩

/-- V-BP3: the lower bound itself is too early. -/
theorem witness_BpEarlyEdgeIsIgnored :
    ∃ s : State, InBpFrame s ∧ 12500 - s.ws.ref < s.desc.hi s.ws.pair ∧ ¬ s.desc.lo s.ws.pair < 12500 - s.ws.ref :=
  ⟨enabledWith bp5 (ws 5 0 11000 .start) EventRecord.zero, by decide⟩

/-- For the four statements about one poll and ButtonStatesFollowTheCycle: each entry state of an enabled block. -/
theorem witness_PollFromEachState :
    (∃ s : State, s.enabled = true ∧ s.er.state = .none ∧ s.er.code ≠ 0#32) ∧
    (∃ s : State, s.enabled = true ∧ s.er.state = .none ∧ s.er.code = 0#32) ∧
    (∃ s : State, s.enabled = true ∧ s.er.state = .pressed) ∧
    (∃ s : State, s.enabled = true ∧ s.er.state = .held) ∧
    (∃ s : State, s.enabled = true ∧ s.er.state = .released) :=
  ⟨⟨enabledWith pf4 (ws 0 9 3700 .ord) (rec .none true 9 3700 0), by decide⟩,
   ⟨enabledWith pf4 (ws 0 0 0 .ord) EventRecord.zero, by decide⟩,
   ⟨enabledWith pf4 (ws 0 9 3700 .ord) (rec .pressed true 9 3700 5000), by decide⟩,
   ⟨enabledWith pf4 (ws 0 9 3700 .ord) (rec .held true 9 3700 25000), by decide⟩,
   ⟨enabledWith pf4 (ws 0 9 3700 .ord) (rec .released true 9 3700 103701), by decide⟩⟩

/-- V-E2. -/
theorem witness_IsolatedPressIsPressedReleasedNone :
    ∃ s : State, s.enabled = true ∧ s.er.state = .none ∧ s.er.code ≠ 0#32 ∧
      s.par.repeatIntervalUs < 103701 - s.ws.ref :=
  ⟨enabledWith pf4 (ws 0 9 3700 .ord) (rec .none true 9 3700 0), by decide⟩

/-- V-E1 line 7: exactly the repeat interval is not yet silence. -/
theorem witness_HeldWhilePolledWithinInterval :
    ∃ (times : List Time) (s : State), s.enabled = true ∧ (s.er.state = .pressed ∨ s.er.state = .held) ∧ times ≠ [] ∧
      ∀ now ∈ times, ¬ s.par.repeatIntervalUs < now - s.ws.ref :=
  ⟨[5000, 103700], enabledWith pf4 (ws 0 9 3700 .ord) (rec .pressed true 9 3700 5000), rfl, .inl rfl, by simp,
    List.forall_mem_cons.mpr ⟨by decide, List.forall_mem_singleton.mpr (by decide)⟩⟩

/-- An enabled state inside a frame that meets the invariant; for ReportsCarryTheirCode and StepKeepsSessionInvariant. -/
theorem witness_MachineInv_enabled : MachineInv (enabledWith pf4 (ws 3 8 1600 .ord) (rec .held true 9 3700 5000)) := by
  refine ⟨by decide, by decide, fun _ => ⟨⟨by decide, by decide, by decide⟩, ⟨?_, ?_⟩, by decide, by decide,
    ⟨by decide, by decide⟩, ⟨by decide, by decide, by decide⟩⟩⟩
  · intro i hi
    have hi' : 4 ≤ i := hi
    by_cases h : i < 32
    · revert hi'; interval_cases i <;> decide
    · exact BitVec.getLsbD_of_ge _ _ (by omega)
  · intro _ i hi
    have hi' : i < 3 := hi
    interval_cases i <;> decide

theorem witness_StepKeepsSessionInvariant :
    MachineInv (enabledWith pf4 (ws 3 8 1600 .ord) (rec .held true 9 3700 5000)) ∧
    ∃ t, step (enabledWith pf4 (ws 3 8 1600 .ord) (rec .held true 9 3700 5000)) = .next t :=
  ⟨witness_MachineInv_enabled, _, rfl⟩

theorem witness_DescriptorChangesOnlyByConfigOrReset :
    ∃ t, step (State.reset.setTrace [.op 0xC00000000#36 pf4]) = .next t ∧ t.desc ≠ State.reset.desc :=
  ⟨_, rfl, fun h => absurd (congrArg Descriptor.flag h) (by decide)⟩

theorem witness_ButtonStateChangesOnlyByPollConfigOrReset :
    ∃ t, step ((enabledWith pf4 (ws 0 9 3700 .ord) (rec .none true 9 3700 0)).setTrace [.op 0x800001388#36 0]) = .next t ∧
      t.er.state ≠ .none :=
  ⟨_, rfl, by decide⟩

/-- By a publication (V-PF1 line 5), by CONFIG and by reset. -/
theorem witness_ToggleChangesOnlyByPublicationConfigOrReset :
    (∃ t, step ((enabledWith pf4 (ws 1 8 2700 .ord) EventRecord.zero).setTrace [.op 0x500000E74#36 0]) = .next t ∧
      t.er.toggle ≠ false) ∧
    (∃ t, step ((enabledWith pf4 (ws 0 9 3700 .ord) (rec .held true 9 3700 25000)).setTrace [.op 0xC00000000#36 pf4]) =
      .next t ∧ t.er.toggle ≠ true) ∧
    (∃ t, step ((enabledWith pf4 (ws 0 9 3700 .ord) (rec .held true 9 3700 25000)).setTrace [.reset]) = .next t ∧
      t.er.toggle ≠ true) :=
  ⟨⟨_, rfl, by decide⟩, ⟨_, rfl, by decide⟩, ⟨_, rfl, by decide⟩⟩

/-- V-PF1: the start edge and four bit edges, with a falling edge before each of the last two (S1c). -/
theorem witness_PfFrameDecodesToItsBits :
    ∃ (s : State) (start : PfPart) (bs : List Bool) (ps : List PfPart),
      s.enabled = true ∧ s.desc.kind = .pf ∧ s.ws.bitsRemaining = 0#6 ∧ bs.length = s.desc.bits.toNat ∧
      1 ≤ bs.length ∧ bs.length ≤ 32 ∧ startAccepted s.desc (start.elapsed s.desc s.par s.ws.ref) ∧
      pfBitsFit s.desc s.par start.now bs ps := by
  refine ⟨enabledWith pf4 (ws 0 0 0 .ord) EventRecord.zero, ⟨[], 800⟩, [true, false, false, true],
    [⟨[], 1700⟩, ⟨[], 2200⟩, ⟨[2500], 2700⟩, ⟨[3500], 3700⟩], rfl, by decide, rfl, by decide, by decide, by decide, by decide, ?_⟩
  refine ⟨by decide, by decide, by decide, by decide, by decide, by decide, by decide, by decide, trivial⟩

/-- P3: the violation at 53700, then a frame whose start interval is met while idle. -/
theorem witness_PfFrameAfterViolationDecodes :
    ∃ (s : State) (bad : Time) (start : PfPart) (bs : List Bool) (ps : List PfPart),
      s.enabled = true ∧ s.desc.kind = .pf ∧ s.ws.bitsRemaining ≠ 0#6 ∧ ¬ inBitWindow s.desc (elapsed bad s.ws.ref) ∧
      (s.par.abortFallsIntoStart = false ∨ ¬ startAccepted s.desc (elapsed bad s.ws.ref)) ∧
      bs.length = s.desc.bits.toNat ∧ 1 ≤ bs.length ∧ bs.length ≤ 32 ∧
      startAccepted s.desc (start.elapsed s.desc s.par bad) ∧ pfBitsFit s.desc s.par start.now bs ps := by
  refine ⟨enabledWith pf4S (ws 3 8 53400 .ord) EventRecord.zero, 53700, ⟨[], 56200⟩, [true, false, true, false],
    [⟨[], 57100⟩, ⟨[], 57600⟩, ⟨[], 58500⟩, ⟨[], 59000⟩], rfl, by decide, by decide, by decide, .inl rfl, by decide, by decide,
    by decide, by decide, ?_⟩
  refine ⟨by decide, by decide, by decide, by decide, by decide, by decide, by decide, by decide, trivial⟩

/-- V-BP1, edges 2 to 9. -/
def bp5Parts : List BpPart :=
  [⟨[], false, 13000⟩, ⟨[], true, 15000⟩, ⟨[(false, 16000)], true, 18000⟩, ⟨[(false, 20000)], true, 21000⟩,
    ⟨[], false, 23000⟩]

theorem bp5_ordered : BoundsOrdered (Descriptor.ofWord bp5) :=
  ⟨by decide, fun h => absurd h (by decide), fun _ => ⟨by decide, by decide⟩⟩

theorem bp5_fits : bpBitsFit (Descriptor.ofWord bp5) 11000 .start bp5Parts := by
  refine ⟨List.forall_mem_nil _, by decide, by decide, List.forall_mem_nil _, by decide, by decide,
    List.forall_mem_singleton.mpr (by decide), by decide, by decide, List.forall_mem_singleton.mpr (by decide), by decide,
    by decide, List.forall_mem_nil _, by decide, by decide, trivial⟩

theorem witness_BpFrameDecodesToItsLevels :
    ∃ (s : State) (start : Time) (ps : List BpPart),
      s.enabled = true ∧ s.desc.kind = .bp ∧ s.ws.bitsRemaining = 0#6 ∧ BoundsOrdered s.desc ∧
      ps.length = s.desc.bits.toNat ∧ 1 ≤ ps.length ∧ ps.length ≤ 32 ∧ bpBitsFit s.desc start .start ps :=
  ⟨enabledWith bp5 (ws 0 0 0 .ord) EventRecord.zero, 11000, bp5Parts, rfl, by decide, rfl, bp5_ordered, by decide, by decide, by decide,
    bp5_fits⟩

/-- V-BP8 with an earlier reference: a late rising edge under the default parameter, then the frame of V-BP1. -/
theorem witness_BpFrameAfterViolationDecodes :
    ∃ (s : State) (level : Bool) (bad start : Time) (ps : List BpPart),
      InBpFrame s ∧ BoundsOrdered s.desc ∧ ¬ elapsed bad s.ws.ref < s.desc.hi s.ws.pair ∧
      (s.par.abortFallsIntoStart = false ∨ level = false) ∧ ps.length = s.desc.bits.toNat ∧ 1 ≤ ps.length ∧
      ps.length ≤ 32 ∧ bpBitsFit s.desc start .start ps :=
  ⟨enabledWith bp5 (ws 5 0 1000 .start) EventRecord.zero, true, 4000, 11000, bp5Parts, by decide, bp5_ordered, by decide,
    .inl rfl, by decide, by decide, by decide, bp5_fits⟩

end Sys2Proof.Tests
end

section
/-! The scope of the block (00_scope): what the next input gives a step to run (R5, R41), that every step answers a next
state and takes one input (R5, R121, R127), and the elapsed time as a number (R8, R80). -/

namespace Sys2Proof.Machine

/-! ### What is presented, and what is left once it is taken -/

theorem presented_op (s : State) (w : EventWord) (cfg : DescWord) (rest : List Input) (i : Instr)
    (ht : s.trace = .op w cfg :: rest) (hd : decode w cfg = .ok i) : presented s = .operation i := by
  simp [presented, ht, hd]

theorem afterInput_op (s : State) (w : EventWord) (cfg : DescWord) (rest : List Input)
    (ht : s.trace = .op w cfg :: rest) : afterInput s = s.setTrace rest := by
  simp [afterInput, ht]

theorem afterInput_edgeWithPoll (s : State) (level : Bool) (tsEdge tsPoll : Time) (rest : List Input)
    (ht : s.trace = .edgeWithPoll level tsEdge tsPoll :: rest) :
    afterInput s = s.setTrace (.op (encode (.poll tsPoll)).1 (encode (.poll tsPoll)).2 :: rest) := by
  simp [afterInput, ht]

/-- An input that is no simultaneous pair is taken whole. -/
theorem afterInput_trace_of_not_pair (s : State)
    (hp : ∀ level tsEdge tsPoll rest, s.trace ≠ .edgeWithPoll level tsEdge tsPoll :: rest) :
    (afterInput s).trace = s.trace.tail := by
  unfold afterInput
  split
  case h_1 ht => rw [ht]; rfl
  case h_2 level tsEdge tsPoll rest ht => exact absurd ht (hp level tsEdge tsPoll rest)
  case h_3 ht => rw [ht]; rfl
  case h_4 ht => rw [ht]; rfl

/-! ### What every operation and every step leave alone -/

/-- Every operation answers a next state, with the parameters and the inputs to come as they were (R4, R5, R127). -/
theorem exec_next (i : Instr) (s : State) : ∃ t, exec i s = .next t ∧ t.par = s.par ∧ t.trace = s.trace := by
  cases i with
  | nop => exact ⟨s, rfl, rfl, rfl⟩
  | edge level ts =>
    obtain ⟨w, e, hedge, -⟩ := edge_writes level ts s
    exact ⟨edge level ts s, rfl, by rw [hedge], by rw [hedge]⟩
  | poll ts =>
    obtain ⟨e, hpoll, -⟩ := pollRecord_writes ts s
    exact ⟨poll ts s, rfl, by rw [poll, hpoll]; rfl, by rw [poll, hpoll]; rfl⟩
  | config c => exact ⟨configure c s, rfl, by rw [configure_eq], by rw [configure_eq]⟩

/-- Whatever is presented, a step answers a next state and, beyond taking the input, leaves the trace alone. -/
theorem step_next (s : State) : ∃ t, step s = .next t ∧ t.par = s.par ∧ t.trace = (afterInput s).trace := by
  unfold step
  cases presented s with
  | waiting => exact ⟨afterInput s, rfl, afterInput_par s, rfl⟩
  | reset => exact ⟨hardReset (afterInput s), rfl, afterInput_par s, rfl⟩
  | illegal e => exact ⟨afterInput s, rfl, afterInput_par s, rfl⟩
  | operation i =>
    obtain ⟨t, hexec, hpar, htrace⟩ := exec_next i (afterInput s)
    exact ⟨t, hexec, hpar.trans (afterInput_par s), htrace⟩

theorem step_of_operation (s : State) (i : Instr) (hp : presented s = .operation i) :
    step s = exec i (afterInput s) := by
  simp only [step, hp]

/-! ### Table words and elapsed times -/

/-- The table decoder answers only what the decoder answers on the two words of the container (entry 16). -/
theorem decode_of_decodeTableWord (nbits w : Nat) (i : Instr) (h : decodeTableWord nbits w = some i) :
    decode (tableEventWord nbits w) (tableDescWord nbits w) = .ok i := by
  unfold decodeTableWord at h
  split_ifs at h
  split at h
  case h_1 j hj => rw [hj, Option.some.inj h]
  case h_2 => cases h

theorem elapsed_toNat (now ref : Time) :
    ((elapsed now ref).toNat : Int) = ((now.toNat : Int) - (ref.toNat : Int)) % 2 ^ 32 := by
  have hnow := now.isLt
  have href := ref.isLt
  rw [elapsed, BitVec.toNat_sub]
  omega

end Sys2Proof.Machine

namespace Sys2Proof.Proofs

open Sys2Proof.Machine

/-- Settles O21: a step leaves the trace as taking the input left it, and that is the tail, or the POLL of the pair in
front of the tail. -/
theorem everyStepAnswersNextAndTakesOneInput : Obligations.EveryStepAnswersNextAndTakesOneInput := by
  intro s
  obtain ⟨t, hstep, hpar, htrace⟩ := step_next s
  refine ⟨t, hstep, hpar, fun hp => ?_, fun level tsEdge tsPoll rest ht => ?_⟩
  · rw [htrace, afterInput_trace_of_not_pair s hp]
  · rw [htrace, afterInput_edgeWithPoll s level tsEdge tsPoll rest ht, State.setTrace_trace]

/-- Settles O14: subtraction of bit vectors is subtraction modulo 2^32; the wrap example of R80 is computed. -/
theorem elapsedIsModularDifference : Obligations.ElapsedIsModularDifference :=
  ⟨elapsed_toNat, by decide⟩

/-- Settles O16: the word at the head of the trace is what is presented, and taking it leaves the rest. -/
theorem stepRunsDecodedOperation : Obligations.StepRunsDecodedOperation := by
  intro s w cfg rest i ht hd
  calc step s = exec i (afterInput s) := step_of_operation s i (presented_op s w cfg rest i ht hd)
    _ = exec i (s.setTrace rest) := by rw [afterInput_op s w cfg rest ht]

/-- Settles O15, as the case of O16 in which the input taken is the table word put before the state's own trace. -/
theorem tableWordIsRunByTheNextStep : Obligations.TableWordIsRunByTheNextStep := by
  intro s nbits w i hi
  exact stepRunsDecodedOperation (s.withFetchWord nbits w) _ _ s.trace i rfl (decode_of_decodeTableWord nbits w i hi)

end Sys2Proof.Proofs
end

section
/-! The state (10_state): what one step can do and which register each operation writes (R18, R22, R23, R25), the state
after reset (R27), and the invariants of an enabled block, kept by every step (R24). -/

namespace Sys2Proof.Machine

open Sys2Proof.Safety

/-! ### What is presented, by the head of the trace -/

theorem presented_nil (s : State) (ht : s.trace = []) : presented s = .waiting := by
  simp [presented, ht]

theorem presented_reset (s : State) (rest : List Input) (ht : s.trace = .reset :: rest) : presented s = .reset := by
  simp [presented, ht]

theorem presented_edgeWithPoll (s : State) (level : Bool) (tsEdge tsPoll : Time) (rest : List Input)
    (ht : s.trace = .edgeWithPoll level tsEdge tsPoll :: rest) : presented s = .operation (.edge level tsEdge) := by
  simp [presented, ht]

theorem presented_illegal (s : State) (w : EventWord) (cfg : DescWord) (rest : List Input) (e : DecodeError)
    (ht : s.trace = .op w cfg :: rest) (hd : decode w cfg = .error e) : presented s = .illegal e := by
  simp [presented, ht, hd]

theorem afterInput_nil (s : State) (ht : s.trace = []) : afterInput s = s := by
  simp [afterInput, ht]

/-- The next input is the EDGE of this level and time: an event word, or the first half of a simultaneous pair (R121). -/
def EdgePresented (s : State) (level : Bool) (now : Time) : Prop :=
  (∃ w cfg rest, s.trace = .op w cfg :: rest ∧ decode w cfg = .ok (.edge level now)) ∨
    ∃ tsPoll rest, s.trace = .edgeWithPoll level now tsPoll :: rest

/-- Every step is one of five things: the input is taken and nothing else done (the wait, an illegal word, NOP), reset,
an EDGE, a POLL or a CONFIG (R5, R40, R53, R130). -/
theorem step_cases {s t : State} (h : step s = .next t) :
    t = afterInput s ∨
    ((∃ rest, s.trace = .reset :: rest) ∧ t = hardReset (afterInput s)) ∨
    (∃ level now, EdgePresented s level now ∧ t = edge level now (afterInput s)) ∨
    (∃ w cfg rest now, s.trace = .op w cfg :: rest ∧ decode w cfg = .ok (.poll now) ∧ t = poll now (afterInput s)) ∨
    ∃ w cfg rest, s.trace = .op w cfg :: rest ∧ decode w cfg = .ok (.config cfg) ∧ t = configure cfg (afterInput s) := by
  cases ht : s.trace with
  | nil =>
    rw [step, presented_nil s ht] at h
    cases h; exact .inl rfl
  | cons input rest =>
    cases input with
    | reset =>
      rw [step, presented_reset s rest ht] at h
      cases h; exact .inr (.inl ⟨⟨rest, rfl⟩, rfl⟩)
    | edgeWithPoll level tsEdge tsPoll =>
      rw [step_of_operation s _ (presented_edgeWithPoll s level tsEdge tsPoll rest ht)] at h
      cases h; exact .inr (.inr (.inl ⟨level, tsEdge, .inr ⟨tsPoll, rest, ht⟩, rfl⟩))
    | op w cfg =>
      cases hd : decode w cfg with
      | error e =>
        rw [step, presented_illegal s w cfg rest e ht hd] at h
        cases h; exact .inl rfl
      | ok i =>
        rw [step_of_operation s i (presented_op s w cfg rest i ht hd)] at h
        cases i with
        | nop => cases h; exact .inl rfl
        | edge level now => cases h; exact .inr (.inr (.inl ⟨level, now, .inl ⟨w, cfg, rest, ht, hd⟩, rfl⟩))
        | poll now => cases h; exact .inr (.inr (.inr (.inl ⟨w, cfg, rest, now, rfl, hd, rfl⟩)))
        | config c =>
          obtain rfl := decode_config w cfg c hd
          cases h; exact .inr (.inr (.inr (.inr ⟨w, c, rest, rfl, hd, rfl⟩)))

/-! ### The frame of an EDGE and of a POLL (R25) -/

section
variable (level : Bool) (now : Time) (s : State)

@[simp] theorem edge_desc : (edge level now s).desc = s.desc := by
  obtain ⟨w, e, h, -⟩ := edge_writes level now s; rw [h]

@[simp] theorem edge_enabled : (edge level now s).enabled = s.enabled := by
  obtain ⟨w, e, h, -⟩ := edge_writes level now s; rw [h]

@[simp] theorem edge_cfgErr : (edge level now s).cfgErr = s.cfgErr := by
  obtain ⟨w, e, h, -⟩ := edge_writes level now s; rw [h]

@[simp] theorem edge_button : (edge level now s).er.state = s.er.state := by
  obtain ⟨w, e, h, hstate, -⟩ := edge_writes level now s; rw [h]; exact hstate

/-- A poll writes the Event Record, as far as its transition may, and returns the record as it then stands (R107, R108). -/
theorem poll_writes :
    ∃ e, poll now s = { s with er := e, snaps := e.word :: s.snaps } ∧ e.firstPress = s.er.firstPress ∧
      e.toggle = s.er.toggle ∧ (e.code ≠ s.er.code → s.er.state = .released ∧ e.code = 0#32) := by
  obtain ⟨e, h, hrest⟩ := pollRecord_writes now s
  exact ⟨e, by rw [poll, h, returnSnapshot_eq], hrest⟩

theorem poll_er : (poll now s).er = (pollRecord now s).er := rfl

@[simp] theorem poll_desc : (poll now s).desc = s.desc := by
  obtain ⟨e, h, -⟩ := poll_writes now s; rw [h]

@[simp] theorem poll_enabled : (poll now s).enabled = s.enabled := by
  obtain ⟨e, h, -⟩ := poll_writes now s; rw [h]

@[simp] theorem poll_cfgErr : (poll now s).cfgErr = s.cfgErr := by
  obtain ⟨e, h, -⟩ := poll_writes now s; rw [h]

@[simp] theorem poll_ws : (poll now s).ws = s.ws := by
  obtain ⟨e, h, -⟩ := poll_writes now s; rw [h]

@[simp] theorem poll_toggle : (poll now s).er.toggle = s.er.toggle := by
  obtain ⟨e, h, -, htoggle, -⟩ := poll_writes now s; rw [h]; exact htoggle

end

/-! ### The record after an EDGE (R77, R78) -/

theorem eq_one_of_sub_one_eq_zero {n : Count} (h : n - 1#6 = 0#6) : n = 1#6 := by
  bv_omega

/-- An edge leaves the Event Record, or it brings the last bit of a frame and publishes the accumulator as it then
stands. -/
theorem edge_er_cases (level : Bool) (now : Time) (s : State) :
    (edge level now s).er = s.er ∨
    (s.enabled = true ∧ s.ws.bitsRemaining = 1#6 ∧ (edge level now s).ws.bitsRemaining = 0#6 ∧
      (edge level now s).er = published s.er (edge level now s).ws.acc now) := by
  by_cases he : s.enabled = true
  swap
  · exact .inl (by rw [edge_disabled level now s (by simpa using he)])
  cases hk : s.desc.kind
  · rw [edge_pf level now s he hk]
    obtain ⟨-, h⟩ | ⟨-, -, h⟩ | ⟨-, -, -, h⟩ | ⟨-, -, -, h⟩ := edgePF_cases level now s <;> rw [h]
    · exact .inl (by rw [pfOther_eq])
    · exact .inl (by rw [pfStart_eq]; rfl)
    · rw [pfBit_eq]
      by_cases hlast : s.ws.bitsRemaining - 1#6 = 0#6
      · exact .inr ⟨he, eq_one_of_sub_one_eq_zero hlast, hlast, if_pos hlast⟩
      · exact .inl (if_neg hlast)
    · exact .inl (by rw [pfAbort_eq]; rfl)
  · rw [edge_bp level now s he hk]
    obtain ⟨-, -, h⟩ | ⟨-, -, h⟩ | ⟨-, -, -, h⟩ | ⟨-, -, -, h⟩ | ⟨-, -, h⟩ := edgeBP_cases level now s <;> rw [h]
    · exact .inl rfl
    · exact .inl rfl
    · rw [bpMidbit_eq]
      by_cases hlast : s.ws.bitsRemaining - 1#6 = 0#6
      · exact .inr ⟨he, eq_one_of_sub_one_eq_zero hlast, hlast, if_pos hlast⟩
      · exact .inl (if_neg hlast)
    · exact .inl rfl
    · exact .inl (by rw [bpAbort_eq])

end Sys2Proof.Machine

namespace Sys2Proof.Safety

open Sys2Proof.Machine

/-! ### The invariant of a session, part by part -/

/-- What a bound descriptor has passed: R63 items 2 to 5. -/
structure DescriptorInv (d : Descriptor) : Prop where
  atLeastOne : 1 ≤ d.bits.toNat
  atMostWidth : d.bits.toNat ≤ 32
  bounds : BoundsOrdered d

/-- R24 (a), (b), (d), (e) of the working state. -/
structure WorkingInv (d : Descriptor) (w : Working) : Prop where
  inFrame : w.bitsRemaining ≤ d.bits
  aboveFrame : ∀ i, d.bits.toNat ≤ i → w.acc.getLsbD i = false
  stillToCome : w.bitsRemaining ≠ 0#6 → ∀ i, i < w.bitsRemaining.toNat → w.acc.getLsbD i = false
  pairLegal : w.pair ≠ .unused
  toggleInAcc : d.kind = .bp → w.acc.getLsbD d.togglePos.toNat = false

/-- R24 (c), (e) of the Event Record. -/
structure RecordInv (d : Descriptor) (e : EventRecord) : Prop where
  codeWhileActive : e.state ≠ .none → e.code ≠ 0#32
  toggleInCode : d.kind = .bp → e.code.getLsbD d.togglePos.toNat = false

theorem sessionInv_iff (s : State) :
    SessionInv s ↔ DescriptorInv s.desc ∧ WorkingInv s.desc s.ws ∧ RecordInv s.desc s.er := by
  constructor
  · rintro ⟨⟨hin, hone, hwidth⟩, ⟨habove, hcome⟩, hactive, hpair, ⟨hacc, hcode⟩, hbounds⟩
    exact ⟨⟨hone, hwidth, hbounds⟩, ⟨hin, habove, hcome, hpair, hacc⟩, ⟨hactive, hcode⟩⟩
  · rintro ⟨⟨hone, hwidth, hbounds⟩, ⟨hin, habove, hcome, hpair, hacc⟩, ⟨hactive, hcode⟩⟩
    exact ⟨⟨hin, hone, hwidth⟩, ⟨habove, hcome⟩, hactive, hpair, ⟨hacc, hcode⟩, hbounds⟩

theorem machineInv_of_enabled {s : State} (he : s.enabled = true) (hc : s.cfgErr = false) (hs : SessionInv s) :
    MachineInv s :=
  ⟨by simp [hc], by simp [he], fun _ => hs⟩

theorem machineInv_of_disabled {s : State} (he : s.enabled = false) (hw : s.ws = Working.zero)
    (hr : s.er = EventRecord.zero) : MachineInv s :=
  ⟨by simp [he], fun _ => ⟨hw, hr⟩, by simp [he]⟩

theorem MachineInv.cfgErr_of_enabled {s : State} (h : MachineInv s) (he : s.enabled = true) : s.cfgErr = false := by
  simpa [he] using h.flags

/-! ### The working state -/

section
variable {d : Descriptor} {w : Working}

/-- An empty accumulator meets the invariant at any legal bit count. -/
theorem workingInv_of_acc_zero (ref : Time) {n : Count} {p : Pair} (hn : n ≤ d.bits) (hp : p ≠ .unused) :
    WorkingInv d { bitsRemaining := n, acc := 0#32, ref := ref, pair := p } where
  inFrame := hn
  aboveFrame _ _ := BitVec.getLsbD_zero
  stillToCome _ _ _ := BitVec.getLsbD_zero
  pairLegal := hp
  toggleInAcc _ := BitVec.getLsbD_zero

theorem workingInv_zero (d : Descriptor) : WorkingInv d Working.zero :=
  workingInv_of_acc_zero 0#32 (Nat.zero_le d.bits.toNat) (by decide)

theorem WorkingInv.setRef (h : WorkingInv d w) (ref : Time) : WorkingInv d { w with ref := ref } :=
  ⟨h.inFrame, h.aboveFrame, h.stillToCome, h.pairLegal, h.toggleInAcc⟩

/-- Dropping a frame keeps the invariant: the bits already assembled stand inside the frame (R75, R94). -/
theorem WorkingInv.dropFrame (h : WorkingInv d w) : WorkingInv d { w with bitsRemaining := 0#6 } :=
  ⟨Nat.zero_le d.bits.toNat, h.aboveFrame, fun hn => absurd rfl hn, h.pairLegal, h.toggleInAcc⟩

/-- An index reads 0 after a bit is received, if it read 0 before and is not the index that was set. -/
theorem getLsbD_received_eq_false {a : Code} {n i : Nat} {P : Prop} [Decidable P] (ha : a.getLsbD i = false)
    (hi : P → i ≠ n) : (if P then a ||| (1#32 <<< n) else a).getLsbD i = false := by
  split
  case isTrue hP => rw [acc_or_bit, ha, decide_eq_false (hi hP)]; simp
  case isFalse => exact ha

/-- Receiving a bit keeps the invariant, if a bi-phase frame sets nothing at its toggle position: the index set is the
bit count after the decrement, below the frame's length and above every index still to come (R74, R90). -/
theorem WorkingInv.receiveBit (h : WorkingInv d w) (hn : w.bitsRemaining ≠ 0#6) (ref : Time) {p : Pair}
    (hp : p ≠ .unused) {P : Prop} [Decidable P] (hP : P → d.kind = .bp → w.bitsRemaining - 1#6 ≠ d.togglePos) :
    WorkingInv d
      { bitsRemaining := w.bitsRemaining - 1#6
        acc := if P then w.acc ||| (1#32 <<< (w.bitsRemaining - 1#6).toNat) else w.acc
        ref := ref
        pair := p } := by
  have hle : w.bitsRemaining.toNat ≤ d.bits.toNat := h.inFrame
  have hpos : w.bitsRemaining.toNat ≠ 0 := fun e => hn (BitVec.eq_of_toNat_eq e)
  have hsub := bitsRemaining_sub_one_toNat w.bitsRemaining hn
  refine ⟨?inFrame, fun i hi => ?above, fun _ i hi => ?come, hp, fun hk => ?toggle⟩
  case inFrame =>
    show (w.bitsRemaining - 1#6).toNat ≤ d.bits.toNat
    omega
  case above => exact getLsbD_received_eq_false (h.aboveFrame i hi) (fun _ => by omega)
  case come =>
    have hi' : i < (w.bitsRemaining - 1#6).toNat := hi
    exact getLsbD_received_eq_false (h.stillToCome hn i (by omega)) (fun _ => by omega)
  case toggle =>
    exact getLsbD_received_eq_false (h.toggleInAcc hk) (fun hset e => hP hset hk (BitVec.eq_of_toNat_eq e.symm))

end

theorem edgePF_keeps_workingInv (level : Bool) (now : Time) (s : State) (hk : s.desc.kind = .pf)
    (h : WorkingInv s.desc s.ws) : WorkingInv s.desc (edgePF level now s).ws := by
  have hstart : WorkingInv s.desc { s.ws with bitsRemaining := s.desc.bits, acc := 0#32, ref := now } :=
    workingInv_of_acc_zero now (BitVec.le_refl _) h.pairLegal
  obtain ⟨-, he⟩ | ⟨-, -, he⟩ | ⟨-, hn, -, he⟩ | ⟨-, -, -, he⟩ := edgePF_cases level now s <;> rw [he]
  · rw [pfOther_eq]; exact h.setRef _
  · rw [pfStart_eq]
    dsimp only
    split
    · exact hstart
    · exact h.setRef now
  · rw [pfBit_eq]
    exact h.receiveBit hn now h.pairLegal (fun _ hb => absurd (hk.symm.trans hb) (by decide))
  · rw [pfAbort_eq]
    dsimp only
    split
    · exact hstart
    · exact (h.setRef now).dropFrame

theorem edgeBP_keeps_workingInv (level : Bool) (now : Time) (s : State) (h : WorkingInv s.desc s.ws) :
    WorkingInv s.desc (edgeBP level now s).ws := by
  have hbegin : WorkingInv s.desc { bitsRemaining := s.desc.bits, acc := 0#32, ref := now, pair := .start } :=
    workingInv_of_acc_zero now (BitVec.le_refl _) (by decide)
  obtain ⟨-, -, he⟩ | ⟨-, -, he⟩ | ⟨hn, -, -, he⟩ | ⟨-, -, -, he⟩ | ⟨-, -, he⟩ := edgeBP_cases level now s <;> rw [he]
  · exact h
  · exact hbegin
  · rw [bpMidbit_eq]
    refine h.receiveBit hn now ?_ (fun hset _ => hset.2)
    split
    · exact h.pairLegal
    · exact nextPair_ne_unused _ _
  · exact h
  · rw [bpAbort_eq]
    dsimp only
    split
    · exact hbegin
    · exact h.dropFrame

theorem edge_keeps_workingInv (level : Bool) (now : Time) (s : State) (h : WorkingInv s.desc s.ws) :
    WorkingInv s.desc (edge level now s).ws := by
  by_cases he : s.enabled = true
  swap
  · rw [edge_disabled level now s (by simpa using he)]; exact h
  cases hk : s.desc.kind
  · rw [edge_pf level now s he hk]; exact edgePF_keeps_workingInv level now s hk h
  · rw [edge_bp level now s he hk]; exact edgeBP_keeps_workingInv level now s h

/-! ### The Event Record -/

theorem recordInv_zero (d : Descriptor) : RecordInv d EventRecord.zero :=
  ⟨fun h => absurd rfl h, fun _ => BitVec.getLsbD_zero⟩

/-- A publication happens in NONE only, and the code takes over that the toggle position reads 0 (R78). -/
theorem RecordInv.published {d : Descriptor} {e : EventRecord} {c : Code} (h : RecordInv d e)
    (hc : d.kind = .bp → c.getLsbD d.togglePos.toNat = false) (now : Time) : RecordInv d (published e c now) := by
  by_cases hb : e.state = .none
  · rw [published_of_none e c now hb]; exact ⟨fun ha => absurd hb ha, hc⟩
  · rw [published_of_active e c now hb]; exact h

theorem edge_keeps_recordInv (level : Bool) (now : Time) (s : State) (hw : WorkingInv s.desc s.ws)
    (h : RecordInv s.desc s.er) : RecordInv s.desc (edge level now s).er := by
  obtain he | ⟨-, -, -, he⟩ := edge_er_cases level now s <;> rw [he]
  · exact h
  · exact h.published (edge_keeps_workingInv level now s hw).toggleInAcc now

/-- A poll enters an active state with the code it found, which is not 0, and clears the code only on the way to NONE
(R102 to R106). -/
theorem pollRecord_keeps_recordInv (now : Time) (s : State) (he : s.enabled = true) (h : RecordInv s.desc s.er) :
    RecordInv s.desc (pollRecord now s).er := by
  cases hb : s.er.state
  case none =>
    rw [pollRecord_none now s he hb]
    exact ⟨fun ha hc => ha (if_neg (not_not_intro hc)), h.toggleInCode⟩
  case pressed =>
    rw [pollRecord_pressed now s he hb]
    exact ⟨fun _ => h.codeWhileActive (by simp [hb]), h.toggleInCode⟩
  case held =>
    rw [pollRecord_held now s he hb]
    exact ⟨fun _ => h.codeWhileActive (by simp [hb]), h.toggleInCode⟩
  case released =>
    rw [pollRecord_released now s he hb]
    exact ⟨fun ha => absurd rfl ha, fun _ => BitVec.getLsbD_zero⟩

/-! ### Every input keeps the invariant of the machine -/

theorem afterInput_keeps_machineInv {s : State} (h : MachineInv s) : MachineInv (afterInput s) where
  flags := by simpa using h.flags
  whileDisabled := by simpa using h.whileDisabled
  whileEnabled := by simpa [sessionInv_iff] using h.whileEnabled

theorem edge_keeps_machineInv (level : Bool) (now : Time) {s : State} (h : MachineInv s) :
    MachineInv (edge level now s) := by
  by_cases he : s.enabled = true
  · obtain ⟨hd, hw, hr⟩ := (sessionInv_iff s).mp (h.whileEnabled he)
    refine machineInv_of_enabled (by simpa using he) (by simpa using h.cfgErr_of_enabled he) ((sessionInv_iff _).mpr ?_)
    rw [edge_desc]
    exact ⟨hd, edge_keeps_workingInv level now s hw, edge_keeps_recordInv level now s hw hr⟩
  · rw [edge_disabled level now s (by simpa using he)]; exact h

theorem poll_keeps_machineInv (now : Time) {s : State} (h : MachineInv s) : MachineInv (poll now s) := by
  by_cases he : s.enabled = true
  · obtain ⟨hd, hw, hr⟩ := (sessionInv_iff s).mp (h.whileEnabled he)
    refine machineInv_of_enabled (by simpa using he) (by simpa using h.cfgErr_of_enabled he) ((sessionInv_iff _).mpr ?_)
    rw [poll_desc, poll_ws, poll_er]
    exact ⟨hd, hw, pollRecord_keeps_recordInv now s he hr⟩
  · have he' : s.enabled = false := by simpa using he
    obtain ⟨hw, hr⟩ := h.whileDisabled he'
    rw [poll_disabled now s he']
    exact machineInv_of_disabled he' hw hr

/-- `valid(C)` gives the bound descriptor its bit count and its ordered bounds (R63). -/
theorem descriptorInv_of_valid {p : Params} {c : DescWord} (h : valid p c = true) :
    DescriptorInv (Descriptor.ofWord c) := by
  simp only [valid, Bool.and_eq_true] at h
  obtain ⟨⟨⟨⟨⟨-, hbits⟩, hbit⟩, hstart⟩, hpairs⟩, -⟩ := h
  simp only [validBits, Bool.and_eq_true, decide_eq_true_eq] at hbits
  obtain ⟨hone, hwidth⟩ := hbits
  have hbounds : cBitMin c < cBitMax c := of_decide_eq_true hbit
  have hstartPF (hk : cKind c = .pf) : cStartMax c = 0#32 ∨ cStartMin c < cStartMax c := by
    simpa [validStartPF, hk] using hstart
  have hpairsBP (hk : cKind c = .bp) : cStartMin c < cStartMax c ∧ cB4 c < cB5 c := by
    simpa [validPairsBP, hk] using hpairs
  exact ⟨hone, hwidth, ⟨hbounds, hstartPF, hpairsBP⟩⟩

/-- CONFIG establishes the invariant from any state: a session is begun, or the block is left disabled and empty (R62). -/
theorem configure_machineInv (c : DescWord) (s : State) : MachineInv (configure c s) := by
  rw [configure_eq]
  by_cases hv : valid s.par c = true
  · exact machineInv_of_enabled hv (by simp [hv])
      ((sessionInv_iff _).mpr ⟨descriptorInv_of_valid hv, workingInv_zero _, recordInv_zero _⟩)
  · exact machineInv_of_disabled (by simpa using hv) rfl rfl

theorem hardReset_machineInv (s : State) : MachineInv (hardReset s) :=
  machineInv_of_disabled rfl rfl rfl

end Sys2Proof.Safety

namespace Sys2Proof.Proofs

open Sys2Proof.Machine Sys2Proof.Safety

/-- Settles O56, by what a step can do: taking the input, an EDGE and a POLL keep the invariant, and reset and CONFIG
establish it. -/
theorem stepKeepsSessionInvariant : Obligations.StepKeepsSessionInvariant := by
  intro s t hs hstep
  have hin := afterInput_keeps_machineInv hs
  obtain rfl | ⟨-, rfl⟩ | ⟨level, now, -, rfl⟩ | ⟨-, -, -, now, -, -, rfl⟩ | ⟨-, cfg, -, -, -, rfl⟩ := step_cases hstep
  · exact hin
  · exact hardReset_machineInv _
  · exact edge_keeps_machineInv level now hin
  · exact poll_keeps_machineInv now hin
  · exact configure_machineInv cfg _

/-- Settles O50: an edge writes `ws` and the publication fields of `er` only. -/
theorem edgeFrame : Obligations.EdgeFrame := by
  intro s level now
  obtain ⟨w, e, hedge, hstate, hpollTime, -, hpair⟩ := edge_writes level now s
  exact ⟨{ s with ws := w, er := e }, congrArg _ hedge, rfl, rfl, rfl, hstate, hpollTime, hpair, rfl, rfl, rfl⟩

/-- Settles O51: a poll writes the Event Record, neither its first-press time nor its toggle, and returns a snapshot. -/
theorem pollFrame : Obligations.PollFrame := by
  intro s now
  obtain ⟨e, hpoll, hfirst, htoggle, hcode⟩ := poll_writes now s
  exact ⟨{ s with er := e, snaps := e.word :: s.snaps }, congrArg _ hpoll, rfl, rfl, rfl, rfl, hfirst, htoggle, hcode, rfl,
    rfl⟩

/-- Settles O52: of the five things a step can do, taking the input, an EDGE and a POLL leave the descriptor. -/
theorem descriptorChangesOnlyByConfigOrReset : Obligations.DescriptorChangesOnlyByConfigOrReset := by
  intro s t hstep hne
  obtain rfl | ⟨hreset, -⟩ | ⟨level, now, -, rfl⟩ | ⟨-, -, -, now, -, -, rfl⟩ | ⟨w, cfg, rest, ht, hd, -⟩ :=
    step_cases hstep
  · exact absurd (afterInput_desc s) hne
  · exact .inl hreset
  · exact absurd (by simp) hne
  · exact absurd (by simp) hne
  · exact .inr ⟨w, cfg, rest, ht, hd⟩

/-- Settles O53: of the five things a step can do, taking the input and an EDGE leave the button state. -/
theorem buttonStateChangesOnlyByPollConfigOrReset : Obligations.ButtonStateChangesOnlyByPollConfigOrReset := by
  intro s t hstep hne
  obtain rfl | ⟨hreset, -⟩ | ⟨level, now, -, rfl⟩ | ⟨w, cfg, rest, now, ht, hd, -⟩ | ⟨w, cfg, rest, ht, hd, -⟩ :=
    step_cases hstep
  · exact absurd (by simp) hne
  · exact .inl hreset
  · exact absurd (by simp) hne
  · exact .inr ⟨w, cfg, rest, ht, .inr ⟨now, hd⟩⟩
  · exact .inr ⟨w, cfg, rest, ht, .inl hd⟩

/-- Settles O54: reset and CONFIG clear the record, a POLL leaves the toggle, and an EDGE that does not leave the record
publishes; outside NONE that publication changes nothing. -/
theorem toggleChangesOnlyByPublicationConfigOrReset : Obligations.ToggleChangesOnlyByPublicationConfigOrReset := by
  intro s t hstep hne
  obtain rfl | ⟨⟨rest, ht⟩, rfl⟩ | ⟨level, now, hedge, rfl⟩ | ⟨-, -, -, now, -, -, rfl⟩ | ⟨w, cfg, rest, ht, hd, rfl⟩ :=
    step_cases hstep
  · exact absurd (by simp) hne
  · exact .inl ⟨rest, ht, rfl⟩
  · obtain hsame | ⟨hen, hone, hzero, hpub⟩ := edge_er_cases level now (afterInput s)
    · exact absurd (by rw [hsame, afterInput_er]) hne
    · simp only [afterInput_enabled, afterInput_ws, afterInput_er] at hen hone hpub
      have hnone : s.er.state = .none := by
        by_contra hactive
        exact hne (by rw [hpub, published_of_active _ _ _ hactive])
      rw [published_of_none _ _ _ hnone] at hpub
      exact .inr (.inr ⟨level, now, hedge, hen, hnone, hone, hzero, hpub⟩)
  · exact absurd (by simp) hne
  · exact .inr (.inl ⟨w, cfg, rest, ht, hd, by rw [configure_eq]; rfl⟩)

/-- Settles O18: an empty trace presents nothing, and there is no input to take. -/
theorem stepWaitsWithoutInput : Obligations.StepWaitsWithoutInput := by
  intro s ht
  rw [step, presented_nil s ht, afterInput_nil s ht]

/-- Settles O22: the values stand in State.reset, and CONFIG writes the same records. -/
theorem resetStateHoldsZeros : Obligations.ResetStateHoldsZeros :=
  ⟨rfl, rfl, rfl, rfl, rfl, fun c s => ⟨configure c s, rfl, by rw [configure_eq]; rfl, by rw [configure_eq]; rfl⟩⟩

/-- Settles O55: the block is disabled at reset, with an idle decoder and the empty record. -/
theorem invariantHoldsAtReset : Obligations.InvariantHoldsAtReset :=
  machineInv_of_disabled rfl rfl rfl

end Sys2Proof.Proofs
end

section
/-! The words (30_encoding): the decoder as one equation per operation and its inverse (R43 to R46, R51), the fields of the
snapshot word and of the descriptor word (R47, R49, R50), and the inputs of the pseudo-operations (R56). -/

namespace Sys2Proof

/-! ### The decoder on a word given by its fields -/

section
variable (z lvl : Bool) (ts : Time) (cfg : DescWord)

@[simp] theorem decode_eventWord_nop : decode (eventWord 0b00#2 z lvl ts) cfg = .ok .nop := by
  simp [decode]

@[simp] theorem decode_eventWord_edge : decode (eventWord 0b01#2 z lvl ts) cfg =
    if z then .error .edgeReservedBit else .ok (.edge lvl ts) := by
  simp [decode]

@[simp] theorem decode_eventWord_poll : decode (eventWord 0b10#2 z lvl ts) cfg =
    if z || lvl then .error .pollReservedBits else .ok (.poll ts) := by
  simp [decode]

@[simp] theorem decode_eventWord_config : decode (eventWord 0b11#2 z lvl ts) cfg =
    if z || lvl || ts != 0#32 then .error .configOperandBits else .ok (.config cfg) := by
  simp [decode]

end

theorem decode_encode (i : Instr) : decode (encode i).1 (encode i).2 = .ok i := by
  cases i with
  | nop => exact decode_eventWord_nop false false 0#32 0
  | edge level ts => exact decode_eventWord_edge false level ts 0
  | poll ts => exact decode_eventWord_poll false false ts 0
  | config c => exact decode_eventWord_config false false 0#32 c

/-! ### The words of each operation -/

theorem exists_eventWord (w : EventWord) : ∃ op z lvl ts, w = eventWord op z lvl ts :=
  ⟨opField w, zField w, lvlField w, tsField w, (eventWord_fields w).symm⟩

theorem op_cases (op : BitVec 2) : op = 0b00#2 ∨ op = 0b01#2 ∨ op = 0b10#2 ∨ op = 0b11#2 := by
  decide +revert

/-- A guarded answer is an operation when the guard is not met. -/
theorem ite_error_ok_eq_ok_iff {p : Prop} [Decidable p] (e : DecodeError) (i j : Instr) :
    (if p then Except.error e else Except.ok i) = Except.ok j ↔ ¬p ∧ i = j := by
  by_cases h : p <;> simp [h]

section
variable (w : EventWord) (cfg : DescWord)

theorem decode_eq_nop_iff : decode w cfg = .ok .nop ↔ opField w = 0b00#2 := by
  obtain ⟨op, z, lvl, t, rfl⟩ := exists_eventWord w
  obtain rfl | rfl | rfl | rfl := op_cases op <;> simp [ite_error_ok_eq_ok_iff]

theorem decode_eq_edge_iff (level : Bool) (ts : Time) :
    decode w cfg = .ok (.edge level ts) ↔ w = (encode (.edge level ts)).1 := by
  obtain ⟨op, z, lvl, t, rfl⟩ := exists_eventWord w
  rw [encode, eventWord_inj]
  obtain rfl | rfl | rfl | rfl := op_cases op <;> simp [ite_error_ok_eq_ok_iff]

theorem decode_eq_poll_iff (ts : Time) : decode w cfg = .ok (.poll ts) ↔ w = (encode (.poll ts)).1 := by
  obtain ⟨op, z, lvl, t, rfl⟩ := exists_eventWord w
  rw [encode, eventWord_inj]
  obtain rfl | rfl | rfl | rfl := op_cases op <;> simp [ite_error_ok_eq_ok_iff, and_assoc]

theorem decode_eq_config_iff (c : DescWord) :
    decode w cfg = .ok (.config c) ↔ w = (encode (.config c)).1 ∧ c = cfg := by
  obtain ⟨op, z, lvl, t, rfl⟩ := exists_eventWord w
  rw [encode, eventWord_inj]
  obtain rfl | rfl | rfl | rfl := op_cases op <;> simp [ite_error_ok_eq_ok_iff, and_assoc, eq_comm (a := c)]

/-! ### The words under a match and a mask -/

theorem eq_eventWord_iff (op : BitVec 2) (z lvl : Bool) (ts : Time) :
    w = eventWord op z lvl ts ↔ opField w = op ∧ zField w = z ∧ lvlField w = lvl ∧ tsField w = ts := by
  rw [← eventWord_inj, eventWord_fields]

theorem and_eventWord_eq_iff (m op : BitVec 2) (mz ml z lvl : Bool) (mt ts : Time) :
    w &&& eventWord m mz ml mt = eventWord op z lvl ts ↔
      opField w &&& m = op ∧ (zField w && mz) = z ∧ (lvlField w && ml) = lvl ∧ tsField w &&& mt = ts := by
  rw [← eventWord_inj, ← eventWord_and, eventWord_fields]

theorem nopMask_iff : w &&& 0xC00000000#36 = 0x000000000#36 ↔ opField w = 0b00#2 := by
  have mask : 0xC00000000#36 = eventWord (.allOnes 2) false false 0#32 := by decide
  have pattern : 0x000000000#36 = eventWord 0b00#2 false false 0#32 := by decide
  rw [mask, pattern, and_eventWord_eq_iff, BitVec.and_allOnes]
  simp

theorem edgeMask_iff : w &&& 0xE00000000#36 = 0x400000000#36 ↔ opField w = 0b01#2 ∧ zField w = false := by
  have mask : 0xE00000000#36 = eventWord (.allOnes 2) true false 0#32 := by decide
  have pattern : 0x400000000#36 = eventWord 0b01#2 false false 0#32 := by decide
  rw [mask, pattern, and_eventWord_eq_iff, BitVec.and_allOnes]
  simp

theorem pollMask_iff :
    w &&& 0xF00000000#36 = 0x800000000#36 ↔ opField w = 0b10#2 ∧ zField w = false ∧ lvlField w = false := by
  have mask : 0xF00000000#36 = eventWord (.allOnes 2) true true 0#32 := by decide
  have pattern : 0x800000000#36 = eventWord 0b10#2 false false 0#32 := by decide
  rw [mask, pattern, and_eventWord_eq_iff, BitVec.and_allOnes]
  simp

/-- The mask of CONFIG fixes every bit (R45). -/
theorem configMask_iff : w &&& 0xFFFFFFFFF#36 = 0xC00000000#36 ↔ w = 0xC00000000#36 := by
  rw [show 0xFFFFFFFFF#36 = BitVec.allOnes 36 from rfl, BitVec.and_allOnes]

end

theorem encode_config (c : DescWord) : encode (.config c) = (0xC00000000#36, c) := by
  have word : eventWord 0b11#2 false false 0#32 = 0xC00000000#36 := by decide
  rw [encode, word]

/-! ### The top hexadecimal digit -/

/-- The number of the top digit, in the fields it is made of (R41, R51). -/
theorem topDigit_toNat (op : BitVec 2) (z lvl : Bool) (ts : Time) :
    ((eventWord op z lvl ts).extractLsb' 32 4).toNat = 4 * op.toNat + 2 * z.toNat + lvl.toNat := by
  rw [eventWord, BitVec.extractLsb'_append_eq_left]
  decide +revert

end Sys2Proof

namespace Sys2Proof.Machine

/-! ### The snapshot word (R49, R50) -/

theorem Button.ofBits_bits (b : Button) : Button.ofBits b.bits = b := by
  cases b <;> rfl

section
variable (e : EventRecord)

@[simp] theorem EventRecord.word_state : e.word.extractLsb' 97 2 = e.state.bits := by
  simp (disch := decide) only [word, BitVec.extractLsb'_append_eq_of_le, BitVec.extractLsb'_eq_self, Nat.reduceSub]

@[simp] theorem EventRecord.word_toggle : e.word.getLsbD 96 = e.toggle := by
  simp only [word, BitVec.getLsbD_append, BitVec.getLsbD_ofBool, Nat.reduceLT, ↓reduceIte, Nat.reduceSub]
  rfl

@[simp] theorem EventRecord.word_code : e.word.extractLsb' 64 32 = e.code := by
  simp (disch := decide) only [word, BitVec.extractLsb'_append_eq_of_le, BitVec.extractLsb'_append_eq_right, Nat.reduceSub]

@[simp] theorem EventRecord.word_firstPress : e.word.extractLsb' 32 32 = e.firstPress := by
  simp (disch := decide) only [word, BitVec.extractLsb'_append_eq_of_le, BitVec.extractLsb'_append_eq_right, Nat.reduceSub]

@[simp] theorem EventRecord.word_pollTime : e.word.extractLsb' 0 32 = e.pollTime := by
  rw [word, BitVec.extractLsb'_append_eq_right]

theorem EventRecord.ofWord_word : ofWord e.word = e := by
  rw [ofWord, word_code, word_firstPress, word_pollTime, word_state, word_toggle, Button.ofBits_bits]

end

/-! ### The descriptor word (R47) -/

section
variable (kind : Kind) (flag : Bool) (bits togglePos : Count) (startMin startMax bitMin bitMax b4 b5 : Time)

theorem cKind_descWord : cKind (descWord kind flag bits togglePos startMin startMax bitMin bitMax b4 b5) = kind := by
  simp only [cKind, descWord, BitVec.getLsbD_append, BitVec.getLsbD_ofBool, Nat.reduceLT, ↓reduceIte, Nat.reduceSub]
  cases kind <;> rfl

theorem cFlag_descWord : cFlag (descWord kind flag bits togglePos startMin startMax bitMin bitMax b4 b5) = flag := by
  simp only [cFlag, descWord, BitVec.getLsbD_append, BitVec.getLsbD_ofBool, Nat.reduceLT, ↓reduceIte, Nat.reduceSub]
  rfl

theorem cReserved_descWord :
    cReserved (descWord kind flag bits togglePos startMin startMax bitMin bitMax b4 b5) = 0#2 := by
  simp (disch := decide) only [cReserved, descWord, BitVec.extractLsb'_append_eq_of_le,
    BitVec.extractLsb'_append_eq_right, Nat.reduceSub]

/-- CONFIG loads the fields a descriptor word was built from (R62). -/
theorem Descriptor.ofWord_descWord :
    ofWord (descWord kind flag bits togglePos startMin startMax bitMin bitMax b4 b5) =
      { kind := kind, flag := flag, bits := bits, togglePos := togglePos, startMin := startMin, startMax := startMax,
        bitMin := bitMin, bitMax := bitMax, b4 := b4, togMax := b5 } := by
  rw [ofWord, cKind_descWord, cFlag_descWord]
  simp (disch := decide) only [cBits, cTogglePos, cStartMin, cStartMax, cBitMin, cBitMax, cB4, cB5, descWord,
    BitVec.extractLsb'_append_eq_of_le, BitVec.extractLsb'_append_eq_right, Nat.reduceSub]

end

/-! ### The inputs of INTERVALS and POLLS (R56) -/

theorem intervalInputs_length (level t : Nat) (ds : List Nat) : (intervalInputs level t ds).length = ds.length := by
  induction ds generalizing t with
  | nil => rfl
  | cons d ds ih => rw [intervalInputs, List.length_cons, ih, List.length_cons]

theorem intervalInputs_getElem? (level t : Nat) {ds : List Nat} {k : Nat} (hk : k < ds.length) :
    (intervalInputs level t ds)[k]? = some (edgeInput level (t + (ds.take (k + 1)).sum)) := by
  induction ds generalizing t k with
  | nil => cases hk
  | cons d ds ih =>
    cases k with
    | zero => simp [intervalInputs]
    | succ k =>
      rw [intervalInputs, List.getElem?_cons_succ, ih (t + d) (Nat.lt_of_succ_lt_succ hk), List.take_succ_cons,
        List.sum_cons, Nat.add_assoc]

theorem pollInputs_length (step t n : Nat) : (pollInputs step t n).length = n := by
  induction n generalizing t with
  | zero => rfl
  | succ n ih => rw [pollInputs, List.length_cons, ih]

theorem pollInputs_getElem? (step t : Nat) {n k : Nat} (hk : k < n) :
    (pollInputs step t n)[k]? = some (pollInput (t + k * step)) := by
  induction n generalizing t k with
  | zero => cases hk
  | succ n ih =>
    cases k with
    | zero => simp [pollInputs]
    | succ k =>
      rw [pollInputs, List.getElem?_cons_succ, ih (t + step) (Nat.lt_of_succ_lt_succ hk), Nat.succ_mul,
        Nat.add_comm (k * step), Nat.add_assoc]

end Sys2Proof.Machine

namespace Sys2Proof.Proofs

open Sys2Proof.Machine

/-- Settles O7: operation by operation, from what the decoder answers on a word given by its fields. -/
theorem decodeOfEncodeIsIdentity : Obligations.DecodeOfEncodeIsIdentity :=
  decode_encode

/-- Settles O1: both sides say that the `op` field is 00. -/
theorem nopWordsAreOpZero : Obligations.NopWordsAreOpZero :=
  ⟨fun w cfg => (decode_eq_nop_iff w cfg).trans (nopMask_iff w).symm, by decide⟩

/-- Settles O2: the EDGE words are the encodings of EDGE, and the mask fixes the two fields that are no operand. -/
theorem edgeWordsCarryLevelAndTime : Obligations.EdgeWordsCarryLevelAndTime := by
  refine ⟨fun w cfg level ts => ?_, by decide, by decide⟩
  rw [decode_eq_edge_iff, encode, eq_eventWord_iff, edgeMask_iff, and_assoc]
  rfl

/-- Settles O3: the POLL words are the encodings of POLL, and the mask fixes the three fields that are no operand. -/
theorem pollWordsCarryTime : Obligations.PollWordsCarryTime := by
  refine ⟨fun w cfg ts => ?_, by decide⟩
  rw [decode_eq_poll_iff, encode, eq_eventWord_iff, pollMask_iff, and_assoc, and_assoc]
  rfl

/-- Settles O4: the mask fixes every bit, and the descriptor is the one held on `cfg`. -/
theorem configWordSamplesDescriptorInput : Obligations.ConfigWordSamplesDescriptorInput := by
  refine ⟨fun w cfg c => ?_, encode_config⟩
  rw [decode_eq_config_iff, encode_config, configMask_iff]

/-- Settles O5: the digit gives the `op` field and what is needed of `z` and `lvl`, and these select the decoder's
answer. -/
theorem topDigitSelectsOperation : Obligations.TopDigitSelectsOperation := by
  intro w cfg
  obtain ⟨op, z, lvl, t, rfl⟩ := exists_eventWord w
  rw [topDigit_toNat, show (eventWord op z lvl t).extractLsb' 0 32 = t from tsField_eventWord op z lvl t]
  refine ⟨?nop, ?fall, ?rise, ?edgeReserved, ?poll, ?pollReserved, ?config, ?configLow, ?configReserved⟩ <;> intro h
  case nop =>
    obtain rfl : op = 0b00#2 := by revert h; decide +revert
    exact decode_eventWord_nop z lvl t cfg
  case fall =>
    obtain ⟨rfl, rfl, rfl⟩ : op = 0b01#2 ∧ z = false ∧ lvl = false := by revert h; decide +revert
    exact decode_eventWord_edge false false t cfg
  case rise =>
    obtain ⟨rfl, rfl, rfl⟩ : op = 0b01#2 ∧ z = false ∧ lvl = true := by revert h; decide +revert
    exact decode_eventWord_edge false true t cfg
  case edgeReserved =>
    obtain ⟨rfl, rfl⟩ : op = 0b01#2 ∧ z = true := by revert h; decide +revert
    exact decode_eventWord_edge true lvl t cfg
  case poll =>
    obtain ⟨rfl, rfl, rfl⟩ : op = 0b10#2 ∧ z = false ∧ lvl = false := by revert h; decide +revert
    exact decode_eventWord_poll false false t cfg
  case pollReserved =>
    obtain ⟨rfl, hset⟩ : op = 0b10#2 ∧ (z || lvl) = true := by revert h; decide +revert
    rw [decode_eventWord_poll, if_pos hset]
  case config =>
    obtain ⟨hd, rfl⟩ := h
    obtain ⟨rfl, rfl, rfl⟩ : op = 0b11#2 ∧ z = false ∧ lvl = false := by revert hd; decide +revert
    exact decode_eventWord_config false false 0#32 cfg
  case configLow =>
    obtain ⟨hd, hlow⟩ := h
    obtain rfl : op = 0b11#2 := by revert hd; decide +revert
    rw [decode_eventWord_config, if_pos (by simp [hlow])]
  case configReserved =>
    obtain ⟨rfl, hset⟩ : op = 0b11#2 ∧ (z || lvl) = true := by revert h; decide +revert
    rw [decode_eventWord_config, hset, Bool.true_or, if_pos rfl]

/-- Settles O8: the words of EDGE, POLL and CONFIG are their encodings. -/
theorem onlyNopHasSeveralWords : Obligations.OnlyNopHasSeveralWords := by
  intro w cfg i hd hne
  cases i with
  | nop => exact absurd rfl hne
  | edge level ts => exact ((decode_eq_edge_iff w cfg level ts).mp hd).symm
  | poll ts => exact ((decode_eq_poll_iff w cfg ts).mp hd).symm
  | config c => exact ((decode_eq_config_iff w cfg c).mp hd).1.symm

/-- Settles O9, with the numbers of R50 button state by button state. -/
theorem snapshotWordLayout : Obligations.SnapshotWordLayout := by
  intro e
  refine ⟨?_, e.word_toggle, e.word_code, e.word_firstPress, e.word_pollTime⟩
  rw [e.word_state]
  cases e.state <;> rfl

/-- Settles O10, from the layout of the word. -/
theorem snapshotWordReadsBack : Obligations.SnapshotWordReadsBack :=
  EventRecord.ofWord_word

/-- Settles O11: the ten fields are loaded, and the reserved bits stand between them. -/
theorem descriptorWordReadsBack : Obligations.DescriptorWordReadsBack := by
  intro kind flag bits togglePos startMin startMax bitMin bitMax b4 b5
  exact ⟨Descriptor.ofWord_descWord kind flag bits togglePos startMin startMax bitMin bitMax b4 b5,
    cReserved_descWord kind flag bits togglePos startMin startMax bitMin bitMax b4 b5⟩

/-- Settles O12, by induction on the intervals. -/
theorem intervalsLineExpandsToRunningSums : Obligations.IntervalsLineExpandsToRunningSums :=
  fun level t0 ds => ⟨intervalInputs_length level t0 ds, fun _ hk => intervalInputs_getElem? level t0 hk⟩

/-- Settles O13, by induction on the number of polls. -/
theorem pollsLineExpandsToEqualSteps : Obligations.PollsLineExpandsToEqualSteps :=
  fun t0 step n => ⟨pollInputs_length step t0 n, fun _ hk => pollInputs_getElem? step t0 hk⟩

/-- Settles O6: each of the six words is decoded by computation. -/
theorem specWordsDecode : Obligations.SpecWordsDecode :=
  ⟨by decide, by decide, by decide, by decide, by decide, by decide⟩

/-- Settles O17: an illegal word is presented as such, and taking it leaves the rest of the trace. -/
theorem stepPassesOverIllegalWord : Obligations.StepPassesOverIllegalWord := by
  intro s w cfg rest e ht hd
  calc step s = .next (illegalWord e (afterInput s)) := by rw [step, presented_illegal s w cfg rest e ht hd]
    _ = .next (s.setTrace rest) := by rw [illegalWord, afterInput_op s w cfg rest ht]

end Sys2Proof.Proofs
end

section
/-! The configuration (40_config): NOP (R60), what CONFIG loads and restarts (R62), `valid(C)` item by item (R63), and the
disabled block (R66). -/

namespace Sys2Proof.Machine

/-! ### valid(C), item by item (R63) -/

section
variable (c : DescWord)

theorem cKind_eq_pf_iff : cKind c = .pf ↔ c.getLsbD 207 = false := by
  rw [cKind]
  cases c.getLsbD 207 <;> decide

theorem cKind_eq_bp_iff : cKind c = .bp ↔ c.getLsbD 207 = true := by
  rw [cKind]
  cases c.getLsbD 207 <;> decide

/-- How the items of R63 ask something of one kind of descriptor only. -/
theorem kind_bne_or_iff (k k' : Kind) (b : Bool) : (k != k' || b) = true ↔ (k = k' → b = true) := by
  by_cases h : k = k' <;> simp [h]

theorem validReserved_iff :
    validReserved c = true ↔ cReserved c = 0#2 ∧ (cKind c = .pf → cTogglePos c = 0#6 ∧ cB5 c = 0#32) := by
  simp only [validReserved, Bool.and_eq_true, kind_bne_or_iff, beq_iff_eq]

theorem validBits_iff : validBits c = true ↔ 1 ≤ (cBits c).toNat ∧ (cBits c).toNat ≤ 32 := by
  simp only [validBits, Bool.and_eq_true, decide_eq_true_eq]

theorem validBitBounds_iff : validBitBounds c = true ↔ cBitMin c < cBitMax c :=
  decide_eq_true_iff

theorem validStartPF_iff :
    validStartPF c = true ↔ (cKind c = .pf → cStartMax c = 0#32 ∨ cStartMin c < cStartMax c) := by
  rw [validStartPF, Bool.or_assoc, kind_bne_or_iff]
  simp only [Bool.or_eq_true, beq_iff_eq, decide_eq_true_eq]

theorem validPairsBP_iff :
    validPairsBP c = true ↔ (cKind c = .bp → cStartMin c < cStartMax c ∧ cB4 c < cB5 c) := by
  simp only [validPairsBP, kind_bne_or_iff, Bool.and_eq_true, decide_eq_true_eq]

theorem validDistinguishable_iff (p : Params) :
    validDistinguishable p c = true ↔ (cKind c = .bp → bpDistinguishable p c = true) :=
  kind_bne_or_iff _ _ _

/-- The six items together; the last two are asked of a bi-phase descriptor only. -/
theorem valid_iff (p : Params) :
    valid p c = true ↔
      cReserved c = 0#2 ∧ (cKind c = .pf → cTogglePos c = 0#6 ∧ cB5 c = 0#32) ∧
      (1 ≤ (cBits c).toNat ∧ (cBits c).toNat ≤ 32) ∧
      cBitMin c < cBitMax c ∧
      (cKind c = .pf → cStartMax c = 0#32 ∨ cStartMin c < cStartMax c) ∧
      (cKind c = .bp → cStartMin c < cStartMax c ∧ cB4 c < cB5 c ∧ bpDistinguishable p c = true) := by
  simp only [valid, Bool.and_eq_true, validReserved_iff, validBits_iff, validBitBounds_iff, validStartPF_iff,
    validPairsBP_iff, validDistinguishable_iff, and_assoc, ← imp_and]

end

/-! ### The empty record (R66) -/

theorem EventRecord.word_zero : EventRecord.zero.word = 0#99 := by decide

end Sys2Proof.Machine

namespace Sys2Proof.Proofs

open Sys2Proof.Machine Sys2Proof.Safety

/-- Settles O24: CONFIG as a whole, with the fields of the descriptor word by their positions. -/
theorem configLoadsAndRestarts : Obligations.ConfigLoadsAndRestarts :=
  fun c s => congrArg Host.Outcome.next (configure_eq c s)

/-- Settles O25: the six items together, with the kind read as bit 207 of the word. -/
theorem validDescriptorConditions : Obligations.ValidDescriptorConditions := by
  intro p c
  rw [valid_iff, cKind_eq_pf_iff, cKind_eq_bp_iff]
  rfl

/-- Settles O23: the meaning of NOP is the state it is given. -/
theorem nopLeavesTheState : Obligations.NopLeavesTheState :=
  fun _ => rfl

/-- Settles O27: neither operation passes the test of `enabled`, and the invariant holds the record of a disabled block
empty. -/
theorem disabledBlockIgnoresEdgeAndPoll : Obligations.DisabledBlockIgnoresEdgeAndPoll := by
  intro s level ts hoff
  refine ⟨congrArg Host.Outcome.next (edge_disabled level ts s hoff), congrArg Host.Outcome.next ?_, fun hinv => ?_⟩
  · rw [poll_disabled ts s hoff, returnSnapshot_eq]
  · obtain ⟨-, hempty⟩ := hinv.whileDisabled hoff
    rw [hempty, EventRecord.word_zero]

end Sys2Proof.Proofs
end

section
/-! EDGE under a pulse-fraction descriptor (41_pulse_fraction): the state each of the four outcomes of an edge leaves (R71 to
R78), and frames as runs of edges, bit by bit, from the start interval to the publication (R83). -/

namespace Sys2Proof.Machine

/-! ### One edge, by its outcome -/

section
variable {s : State} {level : Bool} (now : Time) (he : s.enabled = true) (hk : s.desc.kind = .pf)
include he hk

theorem edge_pf_other (hl : level ≠ s.desc.flag) :
    edge level now s = { s with ws := { s.ws with
      ref := if s.desc.flag = false ∨ s.par.pfRefOnIdleEdge = true then now else s.ws.ref } } := by
  rw [edge_pf level now s he hk, edgePF, if_neg (by exact hl), pfOther_eq]

theorem edge_pf_measuring (hl : level = s.desc.flag) :
    edge level now s = pfMeasured (elapsed now s.ws.ref) now (s.setRef now) := by
  rw [edge_pf level now s he hk, edgePF, if_pos (by exact hl)]

theorem edge_pf_start (hl : level = s.desc.flag) (hb : s.ws.bitsRemaining = 0#6) :
    edge level now s = { s with
      ws :=
        if startAccepted s.desc (elapsed now s.ws.ref) then { s.ws with ref := now, bitsRemaining := s.desc.bits, acc := 0#32 }
        else { s.ws with ref := now } } := by
  rw [edge_pf_measuring now he hk hl, pfMeasured, if_pos (by exact hb), pfStart_eq]
  rfl

theorem edge_pf_bit (hl : level = s.desc.flag) (hb : s.ws.bitsRemaining ≠ 0#6)
    (hw : inBitWindow s.desc (elapsed now s.ws.ref)) :
    edge level now s = pfBit (elapsed now s.ws.ref) now (s.setRef now) := by
  rw [edge_pf_measuring now he hk hl, pfMeasured, if_neg (by exact hb), if_pos (by exact hw)]

theorem edge_pf_abort (hl : level = s.desc.flag) (hb : s.ws.bitsRemaining ≠ 0#6)
    (hw : ¬ inBitWindow s.desc (elapsed now s.ws.ref)) :
    edge level now s = { s with ws :=
      if s.par.abortFallsIntoStart = true ∧ startAccepted s.desc (elapsed now s.ws.ref) then
        { s.ws with ref := now, bitsRemaining := s.desc.bits, acc := 0#32 }
      else { s.ws with ref := now, bitsRemaining := 0#6 } } := by
  rw [edge_pf_measuring now he hk hl, pfMeasured, if_neg (by exact hb), if_neg (by exact hw), pfAbort_eq]
  rfl

theorem edge_pf_measuring_ref (hl : level = s.desc.flag) : (edge level now s).ws.ref = now := by
  by_cases hb : s.ws.bitsRemaining = 0#6
  · rw [edge_pf_start now he hk hl hb]
    dsimp only
    split <;> rfl
  · by_cases hw : inBitWindow s.desc (elapsed now s.ws.ref)
    · rw [edge_pf_bit now he hk hl hb hw, pfBit_eq]
      rfl
    · rw [edge_pf_abort now he hk hl hb hw]
      dsimp only
      split <;> rfl

end

end Sys2Proof.Machine

namespace Sys2Proof.Safety

open Sys2Proof.Machine

/-! ### The code of a frame (R74) -/

/-- The accumulator after the bit `b` at index `n`: a 1 bit is set, a 0 bit writes nothing. -/
def receiveBit (acc : Code) (b : Bool) (n : Nat) : Code := if b = true then acc ||| (1#32 <<< n) else acc

theorem pfAssemble_eq_receiveBit (e : Time) (s : State) :
    pfAssemble e s = s.setAcc (receiveBit s.ws.acc (decide (s.desc.bitSep < e)) s.ws.bitsRemaining.toNat) := by
  rw [pfAssemble, receiveBit]
  by_cases h : s.desc.bitSep < e
  · rw [if_pos h, if_pos (decide_eq_true h), State.setAccBit]
  · rw [if_neg h, if_neg (by simpa using h)]
    rfl

/-- The accumulator after the bits `bs` of a frame, each at the index that is the number of bits after it. -/
def receiveBits : Code → List Bool → Code
  | acc, [] => acc
  | acc, b :: bs => receiveBits (receiveBit acc b bs.length) bs

theorem receiveBit_getLsbD (acc : Code) (b : Bool) {n : Nat} (hn : n < 32) (i : Nat) :
    (receiveBit acc b n).getLsbD i = (acc.getLsbD i || (decide (i = n) && b)) := by
  cases b
  case false => simp [receiveBit]
  case true =>
    rw [receiveBit, if_pos rfl, acc_or_bit]
    by_cases hi : i = n
    · simp [hi, hn]
    · simp [hi]

theorem receiveBits_getLsbD (bs : List Bool) (acc : Code) (hlen : bs.length ≤ 32) (i : Nat) :
    (receiveBits acc bs).getLsbD i =
      (acc.getLsbD i || (decide (i < bs.length) && bs.getD (bs.length - 1 - i) false)) := by
  induction bs generalizing acc with
  | nil => simp [receiveBits]
  | cons b bs ih =>
    have hlen' : bs.length < 32 := hlen
    rw [receiveBits, ih _ hlen'.le, receiveBit_getLsbD acc b hlen' i, List.length_cons, Nat.add_sub_cancel]
    obtain hi | rfl | hi := Nat.lt_trichotomy i bs.length
    · have hidx : bs.length - i = (bs.length - 1 - i) + 1 := by omega
      rw [hidx, List.getD_cons_succ]
      simp [hi, hi.ne, Nat.lt_succ_of_lt hi]
    · simp
    · simp [hi.not_gt, hi.ne', Nat.not_lt.mpr (Nat.succ_le_of_lt hi)]

theorem msbFirst_receiveBits (bs : List Bool) (hlen : bs.length ≤ 32) : MsbFirst bs (receiveBits 0#32 bs) := by
  intro i
  simp [receiveBits_getLsbD bs 0#32 hlen i]

/-! ### Runs of edges -/

theorem runOps_edge_cons (level : Bool) (now : Time) (is : List Instr) (s : State) :
    runOps (.edge level now :: is) s = runOps is (edge level now s) := rfl

theorem runOps_append {is : List Instr} (js : List Instr) {s t : State} (h : runOps is s = .next t) :
    runOps (is ++ js) s = runOps js t := by
  induction is generalizing s with
  | nil => cases h; rfl
  | cons i is ih =>
    obtain ⟨u, hu, -⟩ := exec_next i s
    simp only [runOps, hu, List.cons_append] at h ⊢
    exact ih h

theorem pfOps_cons (d : Descriptor) (p : PfPart) (ps : List PfPart) : pfOps d (p :: ps) = p.ops d ++ pfOps d ps := by
  rw [pfOps, pfOps, List.flatMap_cons]

theorem pfLast_cons (start p : PfPart) (ps : List PfPart) : pfLast start (p :: ps) = pfLast p ps := by
  rw [pfLast, pfLast, List.getLastD_cons]

/-- Non-measuring edges leave the last of their times in the reference, where they write it at all (R72, R81). -/
theorem runOps_pfOthers (ts : List Time) {s : State} (he : s.enabled = true) (hk : s.desc.kind = .pf) :
    runOps (ts.map (fun t => .edge (!s.desc.distanceMode) t)) s = .next (s.setRef
      (if s.desc.distanceMode = false ∨ s.par.pfRefOnIdleEdge = true then ts.getLastD s.ws.ref else s.ws.ref)) := by
  induction ts generalizing s with
  | nil => simp [runOps, State.setRef]
  | cons t ts ih =>
    have hl : (!s.desc.distanceMode) ≠ s.desc.flag := Bool.not_ne_self _
    rw [List.map_cons, runOps_edge_cons, edge_pf_other t he hk hl, List.getLastD_cons]
    by_cases hw : s.desc.distanceMode = false ∨ s.par.pfRefOnIdleEdge = true
    · rw [if_pos (by exact hw), if_pos hw]
      exact (ih (s := s.setRef t) he hk).trans (by rw [if_pos (by exact hw)]; rfl)
    · rw [if_neg (by exact hw), if_neg hw]
      exact (ih (s := s) he hk).trans (by rw [if_neg hw])

/-- A part runs as its measuring edge does from the reference its other edges leave. -/
theorem runOps_pfPart (p : PfPart) {s : State} (he : s.enabled = true) (hk : s.desc.kind = .pf) :
    runOps (p.ops s.desc) s =
      .next (edge s.desc.flag p.now (s.setRef (p.measuredFrom s.desc s.par s.ws.ref))) := by
  rw [PfPart.ops, runOps_append _ (runOps_pfOthers p.others he hk)]
  rfl

theorem runOps_pfPart_start (p : PfPart) {s : State} (he : s.enabled = true) (hk : s.desc.kind = .pf)
    (hb : s.ws.bitsRemaining = 0#6) (ha : startAccepted s.desc (p.elapsed s.desc s.par s.ws.ref)) :
    runOps (p.ops s.desc) s = .next { s with ws := { s.ws with ref := p.now, bitsRemaining := s.desc.bits, acc := 0#32 } } := by
  have hedge := edge_pf_start (s := s.setRef (p.measuredFrom s.desc s.par s.ws.ref)) p.now he hk rfl hb
  rw [if_pos (by exact ha)] at hedge
  exact (runOps_pfPart p he hk).trans (congrArg _ hedge)

/-- The state after the bit `b` that the part `p` brings, `n` bits then left, before the frame is tested for completion. -/
def receivePart (p : PfPart) (b : Bool) (n : Nat) (s : State) : State :=
  ((s.setRef p.now).setBitsRemaining (BitVec.ofNat 6 n)).setAcc (receiveBit s.ws.acc b n)

theorem runOps_pfPart_bit (p : PfPart) {b : Bool} {n : Nat} {s : State} (he : s.enabled = true) (hk : s.desc.kind = .pf)
    (hb : s.ws.bitsRemaining.toNat = n + 1) (hw : inBitWindow s.desc (p.elapsed s.desc s.par s.ws.ref))
    (hside : b = decide (s.desc.bitSep < p.elapsed s.desc s.par s.ws.ref)) :
    runOps (p.ops s.desc) s = .next (completeFrame p.now (receivePart p b n s)) := by
  have hne : s.ws.bitsRemaining ≠ 0#6 := ne_of_apply_ne BitVec.toNat (hb.trans_ne (Nat.succ_ne_zero n))
  have hleft : (s.ws.bitsRemaining - 1#6).toNat = n := by
    rw [bitsRemaining_sub_one_toNat _ hne, hb, Nat.add_sub_cancel]
  have hedge := edge_pf_bit (s := s.setRef (p.measuredFrom s.desc s.par s.ws.ref)) p.now he hk rfl hne (by exact hw)
  refine (runOps_pfPart p he hk).trans (congrArg _ (hedge.trans ?_))
  subst hside hleft
  rw [pfBit, pfAssemble_eq_receiveBit, receivePart, BitVec.ofNat_toNat, BitVec.setWidth_eq]
  rfl

/-- The bits of a frame in progress, at least one and as many as remain, run to its publication. -/
theorem runOps_pfOps_bits (b : Bool) (bs : List Bool) (p : PfPart) (ps : List PfPart) {s : State}
    (he : s.enabled = true) (hk : s.desc.kind = .pf) (hb : s.ws.bitsRemaining.toNat = bs.length + 1)
    (hfit : pfBitsFit s.desc s.par s.ws.ref (b :: bs) (p :: ps)) :
    runOps (pfOps s.desc (p :: ps)) s = .next
      { s with
        ws := { s.ws with bitsRemaining := 0#6, acc := receiveBits s.ws.acc (b :: bs), ref := pfLast p ps }
        er := published s.er (receiveBits s.ws.acc (b :: bs)) (pfLast p ps) } := by
  induction bs generalizing b p ps s with
  | nil =>
    obtain ⟨hw, hside, hrest⟩ := hfit
    cases ps with
    | cons => exact hrest.elim
    | nil =>
      rw [pfOps_cons, runOps_append _ (runOps_pfPart_bit p he hk hb hw hside), completeFrame_eq]
      rfl
  | cons b' bs ih =>
    obtain ⟨hw, hside, hrest⟩ := hfit
    cases ps with
    | nil => exact hrest.elim
    | cons p' ps =>
      have hleft : (receivePart p b (bs.length + 1) s).ws.bitsRemaining.toNat = bs.length + 1 := by
        have hlt := s.ws.bitsRemaining.isLt
        rw [hb, List.length_cons] at hlt
        exact Nat.mod_eq_of_lt (by omega)
      have hmore : (receivePart p b (b' :: bs).length s).ws.bitsRemaining ≠ 0#6 :=
        ne_of_apply_ne BitVec.toNat (hleft.trans_ne (Nat.succ_ne_zero _))
      rw [pfOps_cons, runOps_append _ (runOps_pfPart_bit p he hk hb hw hside), pfLast_cons, completeFrame, if_neg hmore]
      exact ih (s := receivePart p b (bs.length + 1) s) b' p' ps he hk hleft hrest

/-- A frame from its start interval on (R83): as many bits as the descriptor says, at least one. -/
theorem runOps_pfFrame {s : State} {start : PfPart} {bs : List Bool} {ps : List PfPart} (he : s.enabled = true)
    (hk : s.desc.kind = .pf) (hb : s.ws.bitsRemaining = 0#6) (hlen : bs.length = s.desc.bits.toNat) (hpos : 1 ≤ bs.length)
    (ha : startAccepted s.desc (start.elapsed s.desc s.par s.ws.ref)) (hfit : pfBitsFit s.desc s.par start.now bs ps) :
    runOps (pfOps s.desc (start :: ps)) s = .next
      { s with
        ws := { s.ws with bitsRemaining := 0#6, acc := receiveBits 0#32 bs, ref := pfLast start ps }
        er := published s.er (receiveBits 0#32 bs) (pfLast start ps) } := by
  rw [pfOps_cons, runOps_append _ (runOps_pfPart_start start he hk hb ha)]
  match bs, ps, hfit with
  | b :: bs, p :: ps, hfit =>
    rw [pfLast_cons]
    exact runOps_pfOps_bits (s := { s with ws := { s.ws with ref := start.now, bitsRemaining := s.desc.bits, acc := 0#32 } })
      b bs p ps he hk hlen.symm hfit

end Sys2Proof.Safety

namespace Sys2Proof.Proofs

open Sys2Proof.Machine Sys2Proof.Safety

/-- Settles O57: the start interval begins a frame, its bits are received one after another with the last at index 0, and
the last of them completes it. -/
theorem pfFrameDecodesToItsBits : Obligations.PfFrameDecodesToItsBits := by
  intro s start bs ps he hk hb hlen hpos hmax ha hfit
  exact ⟨_, receiveBits 0#32 bs, runOps_pfFrame he hk hb hlen hpos ha hfit, msbFirst_receiveBits bs hmax, rfl⟩

/-- Settles O58: the violating edge leaves an idle block whose reference is its time (R75), and O57 holds from there. -/
theorem pfFrameAfterViolationDecodes : Obligations.PfFrameAfterViolationDecodes := by
  intro s bad start bs ps he hk hb hw hopens hlen hpos hmax ha hfit
  have hdrop : edge s.desc.distanceMode bad s = (s.setRef bad).setBitsRemaining 0#6 := by
    rw [edge_pf_abort (level := s.desc.distanceMode) bad he hk rfl hb hw, if_neg]
    · rfl
    · rintro ⟨hpar, hstart⟩
      obtain hdefault | hrefused := hopens
      · exact Bool.false_ne_true (hdefault.symm.trans hpar)
      · exact hrefused hstart
  obtain ⟨t, code, hrun, hcode, rfl⟩ := pfFrameDecodesToItsBits ((s.setRef bad).setBitsRemaining 0#6) start bs ps he hk rfl
    hlen hpos hmax ha hfit
  exact ⟨_, code, by rw [runOps_edge_cons, hdrop]; exact hrun, hcode, rfl, rfl⟩

/-- Settles O28: the equation of a non-measuring edge. -/
theorem pfNonMeasuringEdge : Obligations.PfNonMeasuringEdge :=
  fun _ _ now he hk hl => congrArg Host.Outcome.next (edge_pf_other now he hk hl)

/-- Settles O29: the reference is taken before the outcome is decided, and no outcome writes it. -/
theorem pfMeasuringEdgeWritesReference : Obligations.PfMeasuringEdgeWritesReference :=
  fun s level now he hk hl => ⟨edge level now s, rfl, edge_pf_measuring_ref now he hk hl⟩

/-- Settles O30: the bit as a whole, where a publication is a completed frame in the state NONE. -/
theorem pfBitIsAssembledAndPublished : Obligations.PfBitIsAssembledAndPublished := by
  intro s level now he hk hl hb hmin hmax n acc
  refine congrArg Host.Outcome.next ((edge_pf_bit now he hk hl hb ⟨hmin, hmax⟩).trans ?_)
  rw [pfBit_eq, ite_and]
  rfl

/-- Settles O31: the equation of an edge outside the bit window. -/
theorem pfAbortDropsFrame : Obligations.PfAbortDropsFrame :=
  fun _ _ now he hk hl hb hw => congrArg Host.Outcome.next (edge_pf_abort now he hk hl hb hw)

/-- Settles O32: the equation of an idle measuring edge. -/
theorem pfStartTestBeginsFrame : Obligations.PfStartTestBeginsFrame :=
  fun _ _ now he hk hl hb => congrArg Host.Outcome.next (edge_pf_start now he hk hl hb)

/-- Settles O33: the record an edge writes is the one it found, unless the button state is NONE. -/
theorem activeEventSuppressesPublication : Obligations.ActiveEventSuppressesPublication := by
  intro s level now hactive
  obtain ⟨w, e, hedge, -, -, hkept, -⟩ := edge_writes level now s
  exact ⟨edge level now s, rfl, by rw [hedge]; exact hkept hactive⟩

end Sys2Proof.Proofs
end

section
/-! EDGE under a bi-phase descriptor (42_biphase): the state each of the outcomes of an edge leaves (R85 to R95), and
frames as runs of edges, mid-bit edge by mid-bit edge, from the start edge to the publication (R99). -/

namespace Sys2Proof.Machine

/-! ### One edge, by its outcome -/

section
variable {s : State} {level : Bool} (now : Time) (he : s.enabled = true) (hk : s.desc.kind = .bp)
include he hk

theorem edge_bp_idle_fall (hb : s.ws.bitsRemaining = 0#6) : edge false now s = s := by
  rw [edge_bp false now s he hk, edgeBP, if_pos hb, if_neg Bool.false_ne_true]

theorem edge_bp_idle_rise (hb : s.ws.bitsRemaining = 0#6) : edge true now s = bpBegin now s := by
  rw [edge_bp true now s he hk, edgeBP, if_pos hb, if_pos rfl]

theorem edge_bp_inFrame (hb : s.ws.bitsRemaining ≠ 0#6) : edge level now s = bpInFrame level now s := by
  rw [edge_bp level now s he hk, edgeBP, if_neg hb]

theorem edge_bp_midbit (hb : s.ws.bitsRemaining ≠ 0#6) (hlo : s.desc.lo s.ws.pair < elapsed now s.ws.ref)
    (hhi : elapsed now s.ws.ref < s.desc.hi s.ws.pair) : edge level now s = bpMidbit level now s := by
  rw [edge_bp_inFrame now he hk hb, bpInFrame, if_pos hhi, if_pos hlo]

theorem edge_bp_early (hb : s.ws.bitsRemaining ≠ 0#6) (hlo : ¬ s.desc.lo s.ws.pair < elapsed now s.ws.ref)
    (hhi : elapsed now s.ws.ref < s.desc.hi s.ws.pair) : edge level now s = s := by
  rw [edge_bp_inFrame now he hk hb, bpInFrame, if_pos hhi, if_neg hlo]

theorem edge_bp_late (hb : s.ws.bitsRemaining ≠ 0#6) (hhi : ¬ elapsed now s.ws.ref < s.desc.hi s.ws.pair) :
    edge level now s = bpAbort level now s := by
  rw [edge_bp_inFrame now he hk hb, bpInFrame, if_neg hhi]

end

theorem ne_zero_of_toNat_eq_succ {c : Count} {n : Nat} (h : c.toNat = n + 1) : c ≠ 0#6 :=
  ne_of_apply_ne BitVec.toNat (h.trans_ne (Nat.succ_ne_zero n))

/-- `next_pair(r)` in the numbers of R91. -/
theorem nextPair_eq (d : Descriptor) (r : Count) :
    d.nextPair r =
      if r.toNat = d.togglePos.toNat ∨ r.toNat = d.togglePos.toNat + 1 then .toggle else .ord := by
  simp only [Descriptor.nextPair, BitVec.toNat_inj]

end Sys2Proof.Machine

namespace Sys2Proof.Safety

open Sys2Proof.Machine

/-! ### The code of a frame (R90, R99) -/

/-- The bit a mid-bit edge of this level brings at index `n`: the toggle position reads 0 (R90). -/
def bpBit (d : Descriptor) (level : Bool) (n : Nat) : Bool :=
  level == d.polarity && decide (n ≠ d.togglePos.toNat)

theorem bpBit_eq_true_iff (d : Descriptor) (level : Bool) (n : Count) :
    bpBit d level n.toNat = true ↔ level = d.polarity ∧ n ≠ d.togglePos := by
  rw [bpBit, Bool.and_eq_true, beq_iff_eq, decide_eq_true_eq, Ne, BitVec.toNat_inj]

theorem bpAssemble_eq_receiveBit (level : Bool) (s : State) :
    bpAssemble level s =
      s.setAcc (receiveBit s.ws.acc (bpBit s.desc level s.ws.bitsRemaining.toNat) s.ws.bitsRemaining.toNat) := by
  rw [bpAssemble_eq, receiveBit]
  simp only [bpBit_eq_true_iff]
  rfl

/-- The bits of a frame, each at the index that is the number of mid-bit edges after it. -/
def bpBits (d : Descriptor) : List BpPart → List Bool
  | [] => []
  | p :: ps => bpBit d p.level ps.length :: bpBits d ps

@[simp] theorem bpBits_length (d : Descriptor) (ps : List BpPart) : (bpBits d ps).length = ps.length := by
  induction ps with
  | nil => rfl
  | cons p ps ih => rw [bpBits, List.length_cons, ih, List.length_cons]

theorem receiveBits_bpBits_cons (d : Descriptor) (acc : Code) (p : BpPart) (ps : List BpPart) :
    receiveBits acc (bpBits d (p :: ps)) =
      receiveBits (receiveBit acc (bpBit d p.level ps.length) ps.length) (bpBits d ps) := by
  rw [bpBits, receiveBits, bpBits_length]

theorem bpBits_getD (d : Descriptor) {ps : List BpPart} {i : Nat} (hi : i < ps.length) :
    (bpBits d ps).getD (ps.length - 1 - i) false =
      bpBit d ((ps.map BpPart.level).getD (ps.length - 1 - i) false) i := by
  induction ps with
  | nil => cases hi
  | cons p ps ih =>
    rw [List.length_cons, Nat.add_sub_cancel, bpBits, List.map_cons]
    obtain hlt | rfl := Nat.lt_or_eq_of_le (Nat.le_of_lt_succ hi)
    · have hidx : ps.length - i = (ps.length - 1 - i) + 1 := by omega
      rw [hidx, List.getD_cons_succ, List.getD_cons_succ, ih hlt]
    · rw [Nat.sub_self, List.getD_cons_zero, List.getD_cons_zero]

/-- The code of R99: a 1 where the level of the mid-bit edge is the polarity, and 0 at the toggle position. -/
theorem receiveBits_bpBits_getLsbD (d : Descriptor) {ps : List BpPart} (hlen : ps.length ≤ 32) (i : Nat) :
    (receiveBits 0#32 (bpBits d ps)).getLsbD i =
      (decide (i < ps.length) && ((ps.map BpPart.level).getD (ps.length - 1 - i) false == d.polarity) &&
        decide (i ≠ d.togglePos.toNat)) := by
  rw [receiveBits_getLsbD _ _ (by rwa [bpBits_length]), bpBits_length, BitVec.getLsbD_zero, Bool.false_or]
  by_cases hi : i < ps.length
  · rw [bpBits_getD d hi, bpBit, Bool.and_assoc]
  · rw [decide_eq_false hi, Bool.false_and, Bool.false_and, Bool.false_and]

/-! ### Runs of edges -/

theorem bpOps_cons (p : BpPart) (ps : List BpPart) : bpOps (p :: ps) = p.ops ++ bpOps ps := by
  rw [bpOps, bpOps, List.flatMap_cons]

theorem bpLast_cons (start : Time) (p : BpPart) (ps : List BpPart) : bpLast start (p :: ps) = bpLast p.now ps := by
  rw [bpLast, bpLast, List.getLast?_cons]
  cases ps.getLast? <;> rfl

/-- Any number of early edges leaves the state (R95, R98 b). -/
theorem runOps_bpEarly {es : List (Bool × Time)} {s : State} (he : s.enabled = true) (hk : s.desc.kind = .bp)
    (hb : s.ws.bitsRemaining ≠ 0#6) (hpair : s.desc.lo s.ws.pair < s.desc.hi s.ws.pair)
    (hearly : ∀ e ∈ es, elapsed e.2 s.ws.ref ≤ s.desc.lo s.ws.pair) :
    runOps (es.map (fun e => .edge e.1 e.2)) s = .next s := by
  induction es with
  | nil => rfl
  | cons e es ih =>
    obtain ⟨hle, hrest⟩ := List.forall_mem_cons.mp hearly
    rw [List.map_cons, runOps_edge_cons, edge_bp_early e.2 he hk hb (BitVec.not_lt.mpr hle) (Nat.lt_of_le_of_lt hle hpair)]
    exact ih hrest

/-- The state after the mid-bit edge of the part `p`, `n` bits then left, before the frame is tested for completion. -/
def receiveBpPart (p : BpPart) (n : Nat) (s : State) : State :=
  ((s.setRef p.now).setBitsRemaining (BitVec.ofNat 6 n)).setAcc (receiveBit s.ws.acc (bpBit s.desc p.level n) n)

theorem bpMidbit_eq_advance (p : BpPart) {n : Nat} {s : State} (hb : s.ws.bitsRemaining.toNat = n + 1) :
    bpMidbit p.level p.now s = bpAdvance p.now (receiveBpPart p n s) := by
  have hne : s.ws.bitsRemaining ≠ 0#6 := ne_zero_of_toNat_eq_succ hb
  have hleft : (s.ws.bitsRemaining - 1#6).toNat = n := by
    rw [bitsRemaining_sub_one_toNat _ hne, hb, Nat.add_sub_cancel]
  subst hleft
  rw [bpMidbit, bpAssemble_eq_receiveBit, receiveBpPart, BitVec.ofNat_toNat, BitVec.setWidth_eq]
  rfl

/-- A part runs as its mid-bit edge does: that edge lies strictly inside the pair, so every early edge comes before the
upper bound too. -/
theorem runOps_bpPart (p : BpPart) {ps : List BpPart} {s : State} (he : s.enabled = true) (hk : s.desc.kind = .bp)
    (hb : s.ws.bitsRemaining.toNat = ps.length + 1) (hfit : bpBitsFit s.desc s.ws.ref s.ws.pair (p :: ps)) :
    runOps p.ops s = .next (bpAdvance p.now (receiveBpPart p ps.length s)) := by
  obtain ⟨hearly, hlo, hhi, -⟩ := hfit
  have hne : s.ws.bitsRemaining ≠ 0#6 := ne_zero_of_toNat_eq_succ hb
  rw [BpPart.ops, runOps_append _ (runOps_bpEarly he hk hne (BitVec.lt_trans hlo hhi) hearly), runOps_edge_cons,
    edge_bp_midbit p.now he hk hne hlo hhi, bpMidbit_eq_advance p hb]
  rfl

/-- The mid-bit edges of a frame in progress, at least one and as many as bits remain, run to its publication; the pair
then left is dead (R92). -/
theorem runOps_bpOps_bits (p : BpPart) (ps : List BpPart) {s : State} (he : s.enabled = true) (hk : s.desc.kind = .bp)
    (hb : s.ws.bitsRemaining.toNat = ps.length + 1) (hfit : bpBitsFit s.desc s.ws.ref s.ws.pair (p :: ps)) :
    ∃ pair, runOps (bpOps (p :: ps)) s = .next
      { s with
        ws := { bitsRemaining := 0#6, acc := receiveBits s.ws.acc (bpBits s.desc (p :: ps)), ref := bpLast p.now ps
                pair := pair }
        er := published s.er (receiveBits s.ws.acc (bpBits s.desc (p :: ps))) (bpLast p.now ps) } := by
  induction ps generalizing p s with
  | nil =>
    rw [bpOps_cons, runOps_append _ (runOps_bpPart p he hk hb hfit), bpAdvance, if_pos (by rfl), publish_eq]
    exact ⟨s.ws.pair, rfl⟩
  | cons p' ps ih =>
    rw [bpOps_cons, runOps_append _ (runOps_bpPart p he hk hb hfit), bpLast_cons, receiveBits_bpBits_cons, bpAdvance]
    obtain ⟨-, -, -, hrest⟩ := hfit
    have hleft : (receiveBpPart p (p' :: ps).length s).ws.bitsRemaining.toNat = ps.length + 1 := by
      have hlt := s.ws.bitsRemaining.isLt
      rw [hb, List.length_cons] at hlt
      exact Nat.mod_eq_of_lt (by omega)
    have hmore : (receiveBpPart p (p' :: ps).length s).ws.bitsRemaining ≠ 0#6 := ne_zero_of_toNat_eq_succ hleft
    rw [if_neg hmore]
    exact ih p' (s := (receiveBpPart p (p' :: ps).length s).setPair (s.desc.nextPair (BitVec.ofNat 6 (p' :: ps).length)))
      he hk hleft hrest

/-- A frame from its start edge on (R99): as many mid-bit edges as the descriptor says, at least one. -/
theorem runOps_bpFrame {s : State} {start : Time} {ps : List BpPart} (he : s.enabled = true) (hk : s.desc.kind = .bp)
    (hb : s.ws.bitsRemaining = 0#6) (hlen : ps.length = s.desc.bits.toNat) (hpos : 1 ≤ ps.length)
    (hfit : bpBitsFit s.desc start .start ps) :
    ∃ pair, runOps (.edge true start :: bpOps ps) s = .next
      { s with
        ws := { bitsRemaining := 0#6, acc := receiveBits 0#32 (bpBits s.desc ps), ref := bpLast start ps, pair := pair }
        er := published s.er (receiveBits 0#32 (bpBits s.desc ps)) (bpLast start ps) } := by
  rw [runOps_edge_cons, edge_bp_idle_rise start he hk hb]
  cases ps with
  | nil => cases hpos
  | cons p ps =>
    rw [bpLast_cons]
    exact runOps_bpOps_bits (s := bpBegin start s) p ps he hk hlen.symm hfit

end Sys2Proof.Safety

namespace Sys2Proof.Proofs

open Sys2Proof.Machine Sys2Proof.Safety

/-- Settles O38: the mid-bit transition as a whole, where a publication is a completed frame in the state NONE. -/
theorem bpMidbitIsAssembledAndPublished : Obligations.BpMidbitIsAssembledAndPublished := by
  intro s level now he hk hb hlo hhi n acc
  refine congrArg Host.Outcome.next ((edge_bp_midbit now he hk hb hlo hhi).trans ?_)
  rw [bpMidbit_eq, nextPair_eq, ite_and (n = 0#6)]
  rfl

/-- Settles O39: the equation of an edge at or after the upper bound. -/
theorem bpLateEdgeAbortsFrame : Obligations.BpLateEdgeAbortsFrame :=
  fun s level now he hk hb hhi => congrArg Host.Outcome.next ((edge_bp_late now he hk hb hhi).trans (bpAbort_eq level now s))

/-- Settles O40: the equation of an edge no later than the lower bound. -/
theorem bpEarlyEdgeIsIgnored : Obligations.BpEarlyEdgeIsIgnored :=
  fun _ _ now he hk hb hhi hlo => congrArg Host.Outcome.next (edge_bp_early now he hk hb hlo hhi)

/-- Settles O59: the start edge begins a frame, its bits are received one after another with the last at index 0, and the
last of them completes it. That the bounds are ordered is not needed beside the mid-bit edges that lie between them. -/
theorem bpFrameDecodesToItsLevels : Obligations.BpFrameDecodesToItsLevels := by
  intro s start ps he hk hb _ hlen hpos hmax hfit
  obtain ⟨_, hrun⟩ := runOps_bpFrame he hk hb hlen hpos hfit
  exact ⟨_, receiveBits 0#32 (bpBits s.desc ps), hrun, receiveBits_bpBits_getLsbD s.desc hmax, rfl, rfl, rfl, rfl, rfl,
    rfl⟩

/-- Settles O60: the late edge leaves an idle block (R94), and O59 holds from there. -/
theorem bpFrameAfterViolationDecodes : Obligations.BpFrameAfterViolationDecodes := by
  intro s level bad start ps he hk hb hbounds hhi hnone hlen hpos hmax hfit
  have hdrop : edge level bad s = s.setBitsRemaining 0#6 := by
    rw [edge_bp_late bad he hk hb hhi, bpAbort, if_neg]
    rintro ⟨hpar, hrise⟩
    obtain hdefault | hfall := hnone
    · exact Bool.false_ne_true (hdefault.symm.trans hpar)
    · exact Bool.false_ne_true (hfall.symm.trans hrise)
  obtain ⟨t, code, hrun, hcode, her, hidle, -⟩ := bpFrameDecodesToItsLevels (s.setBitsRemaining 0#6) start ps he hk rfl
    hbounds hlen hpos hmax hfit
  exact ⟨t, code, by rw [runOps_edge_cons, hdrop]; exact hrun, hcode, her, hidle⟩

/-- Settles O35: the two bounds of each selector are the fields the rule names. -/
theorem pairBoundsFollowSelector : Obligations.PairBoundsFollowSelector :=
  fun _ => ⟨⟨rfl, rfl⟩, ⟨rfl, rfl⟩, rfl, rfl⟩

/-- Settles O36: the equation of an idle falling edge. -/
theorem bpIdleFallingEdgeIsIgnored : Obligations.BpIdleFallingEdgeIsIgnored :=
  fun _ now he hk hb => congrArg Host.Outcome.next (edge_bp_idle_fall now he hk hb)

/-- Settles O37: the equation of an idle rising edge. -/
theorem bpIdleRisingEdgeBeginsFrame : Obligations.BpIdleRisingEdgeBeginsFrame :=
  fun s now he hk hb => congrArg Host.Outcome.next ((edge_bp_idle_rise now he hk hb).trans (bpBegin_eq now s))

end Sys2Proof.Proofs
end

section
/-! POLL and the button states (43_event_state_machine): the record each button state reports (R101 to R108), what a report
says of its code (R109), and runs of polls: the isolated press and the button held down (R110). -/

namespace Sys2Proof.Machine

/-! ### A report, and one poll by the button state -/

/-- The record becomes `e`, and one word of it is returned (R108). -/
def State.report (s : State) (e : EventRecord) : State := { s with er := e, snaps := e.word :: s.snaps }

@[simp] theorem State.report_er (s : State) (e : EventRecord) : (s.report e).er = e := rfl

/-- The record as a poll at `now` reports it in the state `b` (R101, R107). -/
def EventRecord.polled (e : EventRecord) (b : Button) (now : Time) : EventRecord := { e with state := b, pollTime := now }

@[simp] theorem EventRecord.polled_state (e : EventRecord) (b : Button) (now : Time) : (e.polled b now).state = b := rfl
@[simp] theorem EventRecord.polled_code (e : EventRecord) (b : Button) (now : Time) : (e.polled b now).code = e.code := rfl

theorem poll_of_pollRecord {now : Time} {s : State} {e : EventRecord} (h : pollRecord now s = { s with er := e }) :
    poll now s = s.report e := by
  rw [poll, h, returnSnapshot_eq, State.report]

section
variable {s : State} (now : Time) (he : s.enabled = true)
include he

theorem poll_none (hb : s.er.state = .none) :
    poll now s = s.report (s.er.polled (if s.er.code ≠ 0#32 then .pressed else .none) now) :=
  poll_of_pollRecord (pollRecord_none now s he hb)

/-- PRESSED runs the test of HELD in the same poll, so the two report alike (R102 to R104). -/
theorem poll_down (hb : s.er.state = .pressed ∨ s.er.state = .held) :
    poll now s = s.report (s.er.polled (if silent now s then .released else .held) now) := by
  obtain hpressed | hheld := hb
  · exact poll_of_pollRecord (pollRecord_pressed now s he hpressed)
  · exact poll_of_pollRecord (pollRecord_held now s he hheld)

theorem poll_released (hb : s.er.state = .released) :
    poll now s = s.report { s.er.polled .none now with code := 0#32 } :=
  poll_of_pollRecord (pollRecord_released now s he hb)

theorem poll_none_pending (hb : s.er.state = .none) (hc : s.er.code ≠ 0#32) :
    poll now s = s.report (s.er.polled .pressed now) := by
  rw [poll_none now he hb, if_pos hc]

theorem poll_down_silent (hb : s.er.state = .pressed ∨ s.er.state = .held) (hs : silent now s) :
    poll now s = s.report (s.er.polled .released now) := by
  rw [poll_down now he hb, if_pos hs]

theorem poll_down_within (hb : s.er.state = .pressed ∨ s.er.state = .held) (hs : ¬ silent now s) :
    poll now s = s.report (s.er.polled .held now) := by
  rw [poll_down now he hb, if_neg hs]

/-! ### What a report says (R101, R109) -/

theorem poll_pollTime : (poll now s).er.pollTime = now := by
  cases hb : s.er.state
  case none => rw [poll_none now he hb]; rfl
  case pressed => rw [poll_down now he (.inl hb)]; rfl
  case held => rw [poll_down now he (.inr hb)]; rfl
  case released => rw [poll_released now he hb]; rfl

/-- From PRESSED and HELD a poll does not come to NONE; from NONE it stays only without a code; from RELEASED it clears
the code. -/
theorem poll_code_eq_zero_of_state_none (hnone : (poll now s).er.state = .none) : (poll now s).er.code = 0#32 := by
  have hdown (hb : s.er.state = .pressed ∨ s.er.state = .held) : (poll now s).er.code = 0#32 := by
    rw [poll_down now he hb, State.report_er, EventRecord.polled_state] at hnone
    split at hnone <;> cases hnone
  cases hb : s.er.state
  case none =>
    by_contra hc
    rw [poll_none now he hb, State.report_er, EventRecord.polled_code] at hc
    rw [poll_none_pending now he hb hc] at hnone
    cases hnone
  case pressed => exact hdown (.inl hb)
  case held => exact hdown (.inr hb)
  case released => rw [poll_released now he hb, State.report_er]

end

end Sys2Proof.Machine

namespace Sys2Proof.Safety

open Sys2Proof.Machine

/-! ### Runs of polls (R110) -/

theorem runOps_poll_cons (now : Time) (is : List Instr) (s : State) :
    runOps (.poll now :: is) s = runOps is (poll now s) := rfl

/-- Each poll within the interval leaves HELD and the reference, so the next poll is tested against the same reference
(R104). -/
theorem runOps_polls_within (now : Time) (times : List Time) {s : State} (he : s.enabled = true)
    (hb : s.er.state = .pressed ∨ s.er.state = .held) (hs : ∀ t ∈ now :: times, ¬ silent t s) :
    runOps ((now :: times).map .poll) s = .next { s with
      er := s.er.polled .held (times.getLastD now)
      snaps := ((now :: times).map (fun t => (s.er.polled .held t).word)).reverse ++ s.snaps } := by
  induction times generalizing now s with
  | nil =>
    rw [List.map_cons, runOps_poll_cons, poll_down_within now he hb (hs now List.mem_cons_self)]
    rfl
  | cons t times ih =>
    obtain ⟨hnow, hrest⟩ := List.forall_mem_cons.mp hs
    rw [List.map_cons, runOps_poll_cons, poll_down_within now he hb hnow,
      ih t (s := s.report (s.er.polled .held now)) he (.inr rfl) hrest, List.getLastD_cons,
      List.map_cons (l := t :: times), List.reverse_cons, List.append_assoc]
    rfl

/-- A pending code, then silence already at the second poll: the press passes over HELD (R103). -/
theorem runOps_isolatedPress (t1 t2 t3 : Time) {s : State} (he : s.enabled = true) (hb : s.er.state = .none)
    (hc : s.er.code ≠ 0#32) (hs : silent t2 s) :
    runOps [.poll t1, .poll t2, .poll t3] s = .next
      (((s.report (s.er.polled .pressed t1)).report (s.er.polled .released t2)).report
        { s.er.polled .none t3 with code := 0#32 }) := by
  have hrelease : poll t2 (s.report (s.er.polled .pressed t1)) =
      (s.report (s.er.polled .pressed t1)).report (s.er.polled .released t2) :=
    poll_down_silent t2 he (.inl rfl) hs
  rw [runOps_poll_cons, poll_none_pending t1 he hb hc, runOps_poll_cons, hrelease, runOps_poll_cons,
    poll_released t3 (by exact he) rfl]
  rfl

end Sys2Proof.Safety

namespace Sys2Proof.Proofs

open Sys2Proof.Machine Sys2Proof.Safety

/-- Settles O41: the equation of a poll in NONE. -/
theorem pollFromNone : Obligations.PollFromNone :=
  fun _ now he hb => congrArg Host.Outcome.next (poll_none now he hb)

/-- Settles O42: the equation that PRESSED shares with HELD. -/
theorem pollFromPressed : Obligations.PollFromPressed :=
  fun _ now he hb => congrArg Host.Outcome.next (poll_down now he (.inl hb))

/-- Settles O43: the equation that HELD shares with PRESSED. -/
theorem pollFromHeld : Obligations.PollFromHeld :=
  fun _ now he hb => congrArg Host.Outcome.next (poll_down now he (.inr hb))

/-- Settles O44: the code is cleared before NONE's test runs, which therefore stays in NONE. -/
theorem pollFromReleased : Obligations.PollFromReleased :=
  fun _ now he hb => congrArg Host.Outcome.next (poll_released now he hb)

/-- Settles O45: a poll, enabled or not, writes a record and returns one word of it. -/
theorem pollReturnsRecordAfterTransition : Obligations.PollReturnsRecordAfterTransition := by
  intro s now
  obtain ⟨e, hpoll, -⟩ := poll_writes now s
  exact ⟨poll now s, rfl, by rw [hpoll]⟩

/-- Settles O46: a report in NONE has no code in any case, and one with no code is in NONE by the invariant, which the poll
keeps (R24 c). -/
theorem reportsCarryTheirCode : Obligations.ReportsCarryTheirCode := by
  intro s now hinv he
  have hafter : SessionInv (poll now s) := (poll_keeps_machineInv now hinv).whileEnabled (by simpa using he)
  refine ⟨poll now s, rfl, ⟨poll_code_eq_zero_of_state_none now he, fun hcode => ?_⟩, poll_pollTime now he⟩
  by_contra hactive
  exact hafter.codeWhileActive hactive hcode

/-- Settles O47: each equation of a poll names the states it can come to. -/
theorem buttonStatesFollowTheCycle : Obligations.ButtonStatesFollowTheCycle := by
  intro s now he
  have hdown (hb : s.er.state = .pressed ∨ s.er.state = .held) :
      (poll now s).er.state = .held ∨ (poll now s).er.state = .released := by
    rw [poll_down now he hb]
    exact (ite_eq_or_eq _ _ _).symm
  refine ⟨poll now s, rfl, fun hb => ?_, fun hb => hdown (.inl hb), fun hb => hdown (.inr hb), fun hb => ?_⟩
  · rw [poll_none now he hb]
    exact (ite_eq_or_eq _ _ _).symm
  · rw [poll_released now he hb]
    rfl

/-- Settles O48: the state after the three polls, whose reports stand on one another. -/
theorem isolatedPressIsPressedReleasedNone : Obligations.IsolatedPressIsPressedReleasedNone :=
  fun _ t1 t2 t3 he hb hc hs => ⟨_, runOps_isolatedPress t1 t2 t3 he hb hc hs, rfl, rfl, rfl, rfl, rfl⟩

/-- Settles O49: the run of polls within the interval, of which there is at least one. -/
theorem heldWhilePolledWithinInterval : Obligations.HeldWhilePolledWithinInterval := by
  intro times s he hb hne hs
  cases times with
  | nil => exact absurd rfl hne
  | cons now times => exact ⟨_, runOps_polls_within now times he hb hs, by rw [List.getLastD_cons]; rfl, rfl⟩

end Sys2Proof.Proofs
end

section
/-! Faults and simultaneous events (60_exceptions): which steps write the ConfigError flag and with what it stands after a
CONFIG (R116, R123), and the order of an EDGE and a POLL ready together (R121). -/

namespace Sys2Proof.Machine

/-! ### The ConfigError flag -/

section
variable (c : DescWord) (s : State)

@[simp] theorem configure_cfgErr : (configure c s).cfgErr = !valid s.par c := by rw [configure_eq]

@[simp] theorem configure_enabled : (configure c s).enabled = valid s.par c := by rw [configure_eq]

@[simp] theorem configure_ws : (configure c s).ws = Working.zero := by rw [configure_eq]

@[simp] theorem configure_er : (configure c s).er = EventRecord.zero := by rw [configure_eq]

end

/-- A step leaves the ConfigError flag, or it is reset or a CONFIG, whose descriptor is judged under the parameters of the
state it starts from (R116, R123). -/
theorem step_cfgErr_cases {s t : State} (h : step s = .next t) :
    t.cfgErr = s.cfgErr ∨
    (∃ rest, s.trace = .reset :: rest ∧ t.enabled = false ∧ t.cfgErr = false) ∨
    ∃ w cfg rest, s.trace = .op w cfg :: rest ∧ decode w cfg = .ok (.config cfg) ∧
      t.cfgErr = !valid s.par cfg ∧ t.enabled = valid s.par cfg ∧ t.ws = Working.zero ∧ t.er = EventRecord.zero := by
  obtain rfl | ⟨⟨rest, ht⟩, rfl⟩ | ⟨level, now, -, rfl⟩ | ⟨-, -, -, now, -, -, rfl⟩ | ⟨w, cfg, rest, ht, hd, rfl⟩ :=
    step_cases h
  · exact .inl (afterInput_cfgErr s)
  · exact .inr (.inl ⟨rest, ht, rfl, rfl⟩)
  · exact .inl (by simp)
  · exact .inl (by simp)
  · exact .inr (.inr ⟨w, cfg, rest, ht, hd, by simp⟩)

end Sys2Proof.Machine

namespace Sys2Proof.Proofs

open Sys2Proof.Machine

/-- Settles O20: the EDGE leaves the trace as it finds it, with the word of the POLL in front, and that word decodes to the
POLL. -/
theorem simultaneousEdgeGoesBeforePoll : Obligations.SimultaneousEdgeGoesBeforePoll := by
  intro s level tsEdge tsPoll rest ht
  obtain ⟨t, hedge, -, htrace⟩ := exec_next (.edge level tsEdge) (s.setTrace (inputOf (.poll tsPoll) :: rest))
  refine ⟨inputOf (.poll tsPoll) :: rest, t, hedge, ?_, ?_⟩
  · calc step s = exec (.edge level tsEdge) (afterInput s) :=
          step_of_operation s _ (presented_edgeWithPoll s level tsEdge tsPoll rest ht)
      _ = .next t := by rw [afterInput_edgeWithPoll s level tsEdge tsPoll rest ht]; exact hedge
  · exact stepRunsDecodedOperation t _ _ rest (.poll tsPoll) htrace (decode_encode (.poll tsPoll))

/-- Settles O26: CONFIG writes the flag as the negation of `valid(C)` and `enabled` as `valid(C)`, reset clears both, and
no other step changes the flag. -/
theorem configErrorOnlyByInvalidConfig : Obligations.ConfigErrorOnlyByInvalidConfig := by
  refine ⟨fun c s hv => ⟨configure c s, rfl, by simp [hv]⟩, fun s t hstep => ?_⟩
  obtain hsame | ⟨rest, ht, hen, hclear⟩ | ⟨w, cfg, rest, ht, hd, herr, hen, hws, her⟩ := step_cfgErr_cases hstep
  · exact ⟨fun hset hclear => by simp [hset, hclear] at hsame, fun hclear hset => by simp [hset, hclear] at hsame⟩
  · exact ⟨fun hset => by simp [hclear] at hset, fun _ _ => .inl ⟨rest, ht, hen⟩⟩
  · refine ⟨fun hset _ => ?_, fun hcleared _ => ?_⟩
    · have hv : valid s.par cfg = false := by simpa [hset] using herr
      exact ⟨w, cfg, rest, ht, hd, hv, hen.trans hv, hws, her⟩
    · have hv : valid s.par cfg = true := by simpa [hcleared] using herr
      exact .inr ⟨w, cfg, rest, ht, hd, hv, hen.trans hv⟩

end Sys2Proof.Proofs
end

section
/-! Reset and hazards (70_reset_and_hazards): the registers after reset (R130), and the all-zero code, which a frame brings
and no poll reports (R138). -/

namespace Sys2Proof.Machine

open Sys2Proof.Safety

theorem poll_none_without_code {s : State} (now : Time) (he : s.enabled = true) (hb : s.er.state = .none)
    (hc : s.er.code = 0#32) : poll now s = s.report (s.er.polled .none now) := by
  rw [poll_none now he hb, if_neg (not_not_intro hc)]

/-- Under either descriptor a last 0 bit leaves the accumulator as it is, and the frame is complete with it (R74, R77, R90,
R92). -/
theorem edge_of_completesWithZeroBit {s : State} {level : Bool} {now : Time} (he : s.enabled = true)
    (hb : s.ws.bitsRemaining = 1#6) (hz : completesWithZeroBit s level now) :
    edge level now s =
      { s with ws := { s.ws with bitsRemaining := 0#6, ref := now }, er := published s.er s.ws.acc now } := by
  have hne : s.ws.bitsRemaining ≠ 0#6 := by rw [hb]; decide
  have hlast : s.ws.bitsRemaining - 1#6 = 0#6 := by rw [hb]; decide
  obtain ⟨hk, hl, hmin, hmax, hsep⟩ | ⟨hk, hlo, hhi, hzero⟩ := hz
  · have hbit : ¬ s.desc.b4 < elapsed now s.ws.ref := hsep
    rw [edge_pf_bit now he hk hl hne ⟨hmin, hmax⟩, pfBit_eq]
    simp [hlast, hbit]
  · have hbit : ¬ (level = s.desc.flag ∧ s.ws.bitsRemaining - 1#6 ≠ s.desc.togglePos) := by
      rintro ⟨hpolarity, hindex⟩
      obtain hlevel | htoggle := hzero
      · exact hlevel hpolarity
      · exact hindex (hlast.trans htoggle.symm)
    rw [edge_bp_midbit now he hk hne hlo hhi, bpMidbit_eq, if_neg hbit, if_pos hlast, if_pos hlast, hlast]

end Sys2Proof.Machine

namespace Sys2Proof.Safety

open Sys2Proof.Machine

/-- Without a code each poll leaves NONE and no code, so no poll of the list makes a report (R106). -/
theorem runOps_polls_without_code (times : List Time) {s : State} (he : s.enabled = true) (hb : s.er.state = .none)
    (hc : s.er.code = 0#32) :
    runOps (times.map .poll) s = .next { s with
      er := s.er.polled .none (times.getLastD s.er.pollTime)
      snaps := (times.map (fun t => (s.er.polled .none t).word)).reverse ++ s.snaps } := by
  induction times generalizing s with
  | nil =>
    have hsame : s.er.polled .none s.er.pollTime = s.er := by rw [EventRecord.polled, ← hb]
    simp [runOps, hsame]
  | cons t times ih =>
    rw [List.map_cons, runOps_poll_cons, poll_none_without_code t he hb hc,
      ih (s := s.report (s.er.polled .none t)) he rfl hc, List.getLastD_cons, List.map_cons, List.reverse_cons,
      List.append_assoc]
    rfl

end Sys2Proof.Safety

namespace Sys2Proof.Proofs

open Sys2Proof.Machine Sys2Proof.Safety

/-- Settles O34: the last bit publishes the code 0 with the time and the toggle, and without a code the polls that follow
write the poll time alone. -/
theorem allZeroCodeIsNeverReported : Obligations.AllZeroCodeIsNeverReported := by
  intro s level now times he hb hacc hnone hz
  have hedge : edge level now s = { s with
      ws := { s.ws with bitsRemaining := 0#6, ref := now }
      er := { s.er with code := 0#32, firstPress := now, toggle := !s.er.toggle } } := by
    rw [edge_of_completesWithZeroBit he hb hz, published_of_none _ _ _ hnone, hacc]
  rw [runOps_edge_cons, hedge]
  exact ⟨_, runOps_polls_without_code times he hnone rfl, rfl, rfl, rfl⟩

/-- Settles O19: taking the input returns no snapshot, and reset writes every register. -/
theorem resetInputZeroesEveryRegister : Obligations.ResetInputZeroesEveryRegister := by
  intro s rest ht
  have hstep : step s = .next (hardReset (afterInput s)) := by rw [step, presented_reset s rest ht]
  exact ⟨_, hstep, rfl, rfl, rfl, rfl, rfl, afterInput_snaps s⟩

end Sys2Proof.Proofs
end
